-- ==== Sys2Proof/Config.lean ====
section
/-! DEFINITION. What is fixed for the block. It has one parameter, the modulus, and that is a constant
(00_scope.md R4). `LATENCY` (70_reset_and_hazards.md R167) has no place in a model without time, and `ALPHABET`
(44_host_sequences.md R127) is an argument of the host's software in Machine/Codec.lean. There is no free value:
no rule of the spec leaves a value open (60_exceptions.md R141; 93_implementation_defined.md, opening). -/

namespace Sys2Proof.Config

/-- The modulus N = 26: "not an operand, not a register and not configurable" (R4). -/
abbrev modulus : Int := 26

/-- The number of symbols, so the first value a V register cannot hold (R22, 30_encoding.md R57 item 5). -/
abbrev symbols : Nat := 26

end Sys2Proof.Config
end

