-- ==== Sys2Proof/Word.lean ====
section
/-! DEFINITION. The word types of the block (00_scope.md R6), the fixed-size tuples its register files are
made of (R5), and nothing that computes: every computation stands in Decode.lean or under Machine/. -/

namespace Sys2Proof

/-- A command word or the data part of a response: `CMD_W` = `DATA_W` = 32 bits (R6, R50, R60). -/
abbrev Word := BitVec 32

/-- The code part of a response: `CODE_W` = 3 bits (R6, R60). -/
abbrev Code := BitVec 3

/-- The contents of an M or K register: `ENTRY_W` = 16 bits, two's complement (R6, R21, R23). -/
abbrev Entry := BitVec 16

/-- The contents of a V register: `SYM_W` = 5 bits, unsigned (R6, R22). -/
abbrev Sym := BitVec 5

/-- The contents of an R register: `RES_W` = 32 bits, two's complement (R6, R24). -/
abbrev Result := BitVec 32

/-- Four things indexed 0..3: a register file of four, or a 2×2 matrix [[e0, e1], [e2, e3]] row-major
(R5, 42_matrix_ops.md R90). -/
@[ext] structure Quad (α : Type) where
  e0 : α
  e1 : α
  e2 : α
  e3 : α
  deriving DecidableEq, Repr

/-- Two things indexed 0..1: the vector registers, or a 2×1 column with `e0` on top (R5). -/
@[ext] structure Pair (α : Type) where
  e0 : α
  e1 : α
  deriving DecidableEq, Repr

end Sys2Proof
end

