-- ==== Sys2Proof/Syntax.lean ====
section
/-! DEFINITION. The commands of the block as syntax: one constructor of `Instr` for each row of
spec/opcode_table.json (30_encoding.md R56), the bare operations `Op` the opcode byte selects, and the three
formats (R52 to R54). -/

namespace Sys2Proof

/-- A command with its operands. `idx` is the 2-bit register index and `imm` the 16-bit immediate of the command
word (R51, R55), still as bits: what an immediate means is the meaning's business. -/
inductive Instr where
  | nop
  | ldm (idx : Fin 4) (imm : BitVec 16)
  | ldv (idx : Fin 4) (imm : BitVec 16)
  | ldr (idx : Fin 4) (imm : BitVec 16)
  | rdr (idx : Fin 4)
  | rdk (idx : Fin 4)
  | rds
  | clre
  | srst
  | red (idx : Fin 4)
  | minv (idx : Fin 4)
  | det
  | adj
  | kchk
  | invm
  | setkey
  | invkey
  | mulv
  | mulvr
  deriving DecidableEq, Repr

/-- What the opcode byte selects: the 19 mnemonics of R56. -/
inductive Op where
  | nop | ldm | ldv | ldr | rdr | rdk | rds | clre | srst | red | minv | det | adj | kchk | invm
  | setkey | invkey | mulv | mulvr
  deriving DecidableEq, Repr

/-- The three formats of the command word: no operands (R52), an index (R53), an index and an immediate (R54). -/
inductive Format where
  | z | x | xi
  deriving DecidableEq, Repr

/-- The operation of a command, its operands dropped. -/
def Instr.op : Instr → Op
  | .nop => .nop
  | .ldm _ _ => .ldm
  | .ldv _ _ => .ldv
  | .ldr _ _ => .ldr
  | .rdr _ => .rdr
  | .rdk _ => .rdk
  | .rds => .rds
  | .clre => .clre
  | .srst => .srst
  | .red _ => .red
  | .minv _ => .minv
  | .det => .det
  | .adj => .adj
  | .kchk => .kchk
  | .invm => .invm
  | .setkey => .setkey
  | .invkey => .invkey
  | .mulv => .mulv
  | .mulvr => .mulvr

/-- The `idx` field of a command: its index operand, or 0 in format Z (R52). -/
def Instr.idx : Instr → Fin 4
  | .ldm i _ | .ldv i _ | .ldr i _ | .rdr i | .rdk i | .red i | .minv i => i
  | .nop | .rds | .clre | .srst | .det | .adj | .kchk | .invm | .setkey | .invkey | .mulv | .mulvr => 0

/-- The `imm` field of a command: its immediate operand, or 0 in formats Z and X (R52, R53). -/
def Instr.imm : Instr → BitVec 16
  | .ldm _ v | .ldv _ v | .ldr _ v => v
  | .rdr _ | .rdk _ | .red _ | .minv _ => 0
  | .nop | .rds | .clre | .srst | .det | .adj | .kchk | .invm | .setkey | .invkey | .mulv | .mulvr => 0

end Sys2Proof
end

