-- ==== Sys2Proof/WellFormed.lean ====
section
/-! DEFINITION. Which commands the encoding admits. Every index and every immediate is legal except for LDV, whose
index is 0..1 and whose value is 0..25 (30_encoding.md R54, R55, R57 item 5). -/

namespace Sys2Proof

/-- R54, R57 item 5: LDV names V[0] or V[1]. -/
def ldvIndexOk (idx : Fin 4) : Bool := decide (idx.val < 2)

/-- R55, R57 item 5: LDV takes a symbol, at most 25. -/
def ldvSymbolOk (imm : BitVec 16) : Bool := decide (imm.toNat < Config.symbols)

/-- The command is one a legal word stands for (R58). -/
def Instr.wellFormed : Instr → Bool
  | .ldv idx imm => ldvIndexOk idx && ldvSymbolOk imm
  | .nop | .ldm _ _ | .ldr _ _ | .rdr _ | .rdk _ | .rds | .clre | .srst | .red _ | .minv _ | .det | .adj
  | .kchk | .invm | .setkey | .invkey | .mulv | .mulvr => true

end Sys2Proof
end

