-- ==== Sys2Proof/Decode.lean ====
section
/-! DEFINITION. From command words to commands and back (30_encoding.md R50 to R59). Decoding is total on 32-bit
words, reads no state and rejects by name; every rejection is the one error IllegalCommand (R57). A command word is
one 32-bit value and the block has no byte order (20_memory.md R42), so the decoder takes the word itself. -/

namespace Sys2Proof

/-! ### The fields of a command word (R51) -/

/-- `cmd[31:24]`, the opcode. -/
def fieldOp (w : Word) : BitVec 8 := w.extractLsb' 24 8

/-- `cmd[23:22]`, reserved, must be 0. -/
def fieldRsv1 (w : Word) : BitVec 2 := w.extractLsb' 22 2

/-- `cmd[21:20]`, the register index, read as unsigned (R55). -/
def fieldIdx (w : Word) : Fin 4 := (w.extractLsb' 20 2).toFin

/-- `cmd[19:16]`, reserved, must be 0. -/
def fieldRsv0 (w : Word) : BitVec 4 := w.extractLsb' 16 4

/-- `cmd[15:0]`, the immediate. -/
def fieldImm (w : Word) : BitVec 16 := w.extractLsb' 0 16

/-! ### The opcode map (R56) -/

/-- The opcode of each command (R56). -/
def Op.code : Op → BitVec 8
  | .nop => 0x00
  | .ldm => 0x01
  | .ldv => 0x02
  | .ldr => 0x03
  | .rdr => 0x08
  | .rdk => 0x09
  | .rds => 0x0A
  | .clre => 0x0E
  | .srst => 0x0F
  | .red => 0x10
  | .minv => 0x11
  | .det => 0x20
  | .adj => 0x21
  | .kchk => 0x22
  | .invm => 0x23
  | .setkey => 0x30
  | .invkey => 0x31
  | .mulv => 0x32
  | .mulvr => 0x33

/-- The format of each command (R52 to R54, R56). -/
def Op.format : Op → Format
  | .ldm | .ldv | .ldr => .xi
  | .rdr | .rdk | .red | .minv => .x
  | .nop | .rds | .clre | .srst | .det | .adj | .kchk | .invm | .setkey | .invkey | .mulv | .mulvr => .z

/-- The command an opcode selects; the other 237 values are undefined (R56, R57 item 1). -/
def opOfCode (c : BitVec 8) : Option Op :=
  match c.toNat with
  | 0x00 => some .nop
  | 0x01 => some .ldm
  | 0x02 => some .ldv
  | 0x03 => some .ldr
  | 0x08 => some .rdr
  | 0x09 => some .rdk
  | 0x0A => some .rds
  | 0x0E => some .clre
  | 0x0F => some .srst
  | 0x10 => some .red
  | 0x11 => some .minv
  | 0x20 => some .det
  | 0x21 => some .adj
  | 0x22 => some .kchk
  | 0x23 => some .invm
  | 0x30 => some .setkey
  | 0x31 => some .invkey
  | 0x32 => some .mulv
  | 0x33 => some .mulvr
  | _ => none

/-- The command of an operation with the operand fields its format uses. -/
def Op.withOperands (o : Op) (idx : Fin 4) (imm : BitVec 16) : Instr :=
  match o with
  | .nop => .nop
  | .ldm => .ldm idx imm
  | .ldv => .ldv idx imm
  | .ldr => .ldr idx imm
  | .rdr => .rdr idx
  | .rdk => .rdk idx
  | .rds => .rds
  | .clre => .clre
  | .srst => .srst
  | .red => .red idx
  | .minv => .minv idx
  | .det => .det
  | .adj => .adj
  | .kchk => .kchk
  | .invm => .invm
  | .setkey => .setkey
  | .invkey => .invkey
  | .mulv => .mulv
  | .mulvr => .mulvr

/-! ### Decoding (R57, R59) -/

/-- Why a word is illegal, in the order R57 lists the tests. All give IllegalCommand. -/
inductive DecodeError where
  /-- R57 item 1: the opcode is not in the table of R56. -/
  | undefinedOpcode (op : BitVec 8)
  /-- R57 item 2: a reserved bit (23:22 or 19:16) is 1. -/
  | reservedBits
  /-- R57 items 3 and 4: a field the format does not use is not 0. -/
  | unusedField (op : Op)
  /-- R57 item 5: LDV with an index of 2 or 3. -/
  | vectorIndex (idx : Fin 4)
  /-- R57 item 5: LDV with a value of 26 or more. -/
  | notASymbol (imm : BitVec 16)
  deriving DecidableEq, Repr

/-- R57 items 3 and 4: the format leaves no operand bits behind. -/
def fieldsFit (f : Format) (idx : Fin 4) (imm : BitVec 16) : Bool :=
  match f with
  | .z => idx == 0 && imm == 0
  | .x => imm == 0
  | .xi => true

/-- The decoder of R59. -/
def decode (w : Word) : Except DecodeError Instr :=
  match opOfCode (fieldOp w) with
  | none => .error (.undefinedOpcode (fieldOp w))
  | some o =>
    if fieldRsv1 w ≠ 0 ∨ fieldRsv0 w ≠ 0 then .error .reservedBits
    else if fieldsFit o.format (fieldIdx w) (fieldImm w) = false then .error (.unusedField o)
    else if o = .ldv ∧ ldvIndexOk (fieldIdx w) = false then .error (.vectorIndex (fieldIdx w))
    else if o = .ldv ∧ ldvSymbolOk (fieldImm w) = false then .error (.notASymbol (fieldImm w))
    else .ok (o.withOperands (fieldIdx w) (fieldImm w))

/-! ### Encoding -/

/-- A command word from its fields, the reserved bits 0 (R51): `op ∥ 00 ∥ idx ∥ 0000 ∥ imm`. -/
def assembleFields (op : BitVec 8) (idx : Fin 4) (imm : BitVec 16) : Word :=
  op ++ 0#2 ++ BitVec.ofFin (w := 2) idx ++ 0#4 ++ imm

/-- The word of a command (R51 to R56). -/
def encode (i : Instr) : Word := assembleFields i.op.code i.idx i.imm

/-! ### The opcode table's numbering -/

/-- The instruction the decoder reads from an opcode-table row's word: `nbits` bits of `w`, every higher bit 0. No
command is longer than 32 bits (R50), so more bits than that are no command. -/
def decodeTableWord (nbits w : Nat) : Option Instr :=
  if nbits ≤ 32 then (decode (BitVec.ofNat 32 (w % 2 ^ nbits))).toOption else none

end Sys2Proof
end

