-- ==== Sys2Proof/Machine/State.lean ====
section
/-! DEFINITION. The state of the block (10_state.md R20), its ports, its reset value (R33), and the reasons a step
could stop. -/

namespace Sys2Proof.Machine

/-- The four error causes (60_exceptions.md R141). They are reported in responses and never stop the machine. -/
inductive ErrorKind where
  | invalidKey
  | noInverse
  | emptyOrUnsetState
  | illegalCommand
  deriving DecidableEq, Repr

/-- The sticky error bits EF[1..4], in that order (R20, R26). -/
@[ext] structure ErrorFlags where
  invalidKey : Bool
  noInverse : Bool
  emptyOrUnsetState : Bool
  illegalCommand : Bool
  deriving DecidableEq, Repr

/-- One response: a code and a data word (30_encoding.md R60). -/
@[ext] structure Response where
  code : Code
  data : Word
  deriving DecidableEq, Repr

/-- What the host can do to the block: issue a command word, or assert `rst` (44_host_sequences.md R132), either
between commands or while a command is in progress (70_reset_and_hazards.md R160). DESIGN CHOICE, log entry 6. -/
inductive HostInput where
  /-- The host issues a command word (R46). -/
  | command (w : Word)
  /-- The host asserts `rst` between commands. -/
  | reset
  /-- The host asserts `rst` while the block is executing the word `w`, which is abandoned (R160). -/
  | resetDuring (w : Word)
  deriving DecidableEq, Repr

/-- The whole state. `m`, `v`, `k`, `r` and `ef` are the architectural state of R20, each register absent while it
is unset, so that the tags MW, VW, RW and KV are "the register has a value" (R20: "A model may hold each of M[i],
V[i], R[i] as an optional integer and K as an optional 4-tuple; that is the same state"; log entry 2). `inputs` and
`responses` are the model's own: the two ports of R63 at the level of whole transactions (log entry 1). -/
@[ext]
structure State where
  /-- The operand matrix M[0..3] (R21). -/
  m : Quad (Option Entry)
  /-- The operand vector V[0..1] (R22). -/
  v : Pair (Option Sym)
  /-- The active key K[0..3]; absent is "no key", KV = 0 (R23). -/
  k : Option (Quad Entry)
  /-- The result registers R[0..3] (R24). -/
  r : Quad (Option Result)
  /-- The sticky error flags EF[1..4] (R26). -/
  ef : ErrorFlags
  /-- What the host has offered and the block has not taken yet, oldest first (R46, R63). -/
  inputs : List HostInput
  /-- The responses given so far, oldest first (R46, R168). -/
  responses : List Response
  deriving DecidableEq, Repr

/-- The machine right after reset (R33, R161): every register unset, no key, EF clear. Nothing has been offered and
nothing answered: DESIGN CHOICE, log entry 1. -/
def State.reset : State where
  m := ⟨none, none, none, none⟩
  v := ⟨none, none⟩
  k := none
  r := ⟨none, none, none, none⟩
  ef := ⟨false, false, false, false⟩
  inputs := []
  responses := []

/-- The faults of a step: none. "The block never hangs, never gives an undefined result and never fails silently"
(R141), and its four errors are responses, after which "the command after a failed command is taken and executed
like any other" (R140). Nothing raises a fault, which is neither safe nor unsafe. -/
inductive Fault where
  deriving DecidableEq, Repr

/-- The refusals of a step. -/
inductive Refusal where
  /-- Raised by an arm of `exec` for an instruction that has no meaning yet; no arm uses it. Safe: the model would
  stop where the hardware goes on. -/
  | notModelled (mnemonic : String)
  deriving DecidableEq, Repr

/-- What a step or a meaning answers. -/
abbrev Answer := Host.Outcome State Fault Refusal

end Sys2Proof.Machine
end

