-- ==== Sys2Proof/Machine/Ops.lean ====
section
/-! DEFINITION. The named operations over registers, error flags and ports that every meaning is built from. Taking
an error is ONE operation, `raiseError` (60_exceptions.md R140, R147). There is no return from an error beside it:
"there is no return command because control never left the host's command sequence" (R148). The block has no memory
(20_memory.md R40), so there are no memory operations. -/

namespace Sys2Proof

/-! ### Indexed access to tuples -/

/-- The element at an index (R5: index 0 = a, 1 = b, 2 = c, 3 = d). -/
def Quad.get {α : Type} (q : Quad α) : Fin 4 → α
  | 0 => q.e0
  | 1 => q.e1
  | 2 => q.e2
  | 3 => q.e3

/-- Replace the element at an index. -/
def Quad.set {α : Type} (q : Quad α) (i : Fin 4) (x : α) : Quad α :=
  match i with
  | 0 => { q with e0 := x }
  | 1 => { q with e1 := x }
  | 2 => { q with e2 := x }
  | 3 => { q with e3 := x }

/-- Apply a function to every element. -/
def Quad.map {α β : Type} (f : α → β) (q : Quad α) : Quad β := ⟨f q.e0, f q.e1, f q.e2, f q.e3⟩

/-- The four values, when all four are present. -/
def Quad.allSet {α : Type} (q : Quad (Option α)) : Option (Quad α) :=
  match q.e0, q.e1, q.e2, q.e3 with
  | some a, some b, some c, some d => some ⟨a, b, c, d⟩
  | _, _, _, _ => none

/-- The element at an index (R5: index 0 = top, 1 = bottom). -/
def Pair.get {α : Type} (p : Pair α) : Fin 2 → α
  | 0 => p.e0
  | 1 => p.e1

/-- Replace the element at an index. -/
def Pair.set {α : Type} (p : Pair α) (i : Fin 2) (x : α) : Pair α :=
  match i with
  | 0 => { p with e0 := x }
  | 1 => { p with e1 := x }

/-- Apply a function to both elements. -/
def Pair.map {α β : Type} (f : α → β) (p : Pair α) : Pair β := ⟨f p.e0, f p.e1⟩

/-- The two values, when both are present. -/
def Pair.allSet {α : Type} (p : Pair (Option α)) : Option (Pair α) :=
  match p.e0, p.e1 with
  | some x, some y => some ⟨x, y⟩
  | _, _ => none

end Sys2Proof

namespace Sys2Proof.Machine

/-! ### Register writes: writing a register makes it set (00_scope.md notation; R26 (a)) -/

/-- `M[i] <- x`, and MW[i] <- 1. -/
def State.writeM (i : Fin 4) (x : Entry) (s : State) : State := { s with m := s.m.set i (some x) }

/-- `V[i] <- x`, and VW[i] <- 1. -/
def State.writeV (i : Fin 2) (x : Sym) (s : State) : State := { s with v := s.v.set i (some x) }

/-- `R[i] <- x`, and RW[i] <- 1. -/
def State.writeR (i : Fin 4) (x : Result) (s : State) : State := { s with r := s.r.set i (some x) }

/-- `R[0] <- q0; R[1] <- q1; R[2] <- q2; R[3] <- q3`, all at once (20_memory.md R44). -/
def State.writeRAll (q : Quad Result) (s : State) : State := { s with r := q.map some }

/-- `R[0] <- p0; R[1] <- p1`, both at once; R[2] and R[3] keep value and tag (R44, 43 R113). -/
def State.writeRLow (p : Pair Result) (s : State) : State :=
  { s with r := { s.r with e0 := some p.e0, e1 := some p.e1 } }

/-- `K[0..3] <- q` and KV <- 1, all at once (R44, 43 R111). -/
def State.writeK (q : Quad Entry) (s : State) : State := { s with k := some q }

/-- KV <- 0, "no key": the entries have no value any more (R23, 43 R111). -/
def State.dropK (s : State) : State := { s with k := none }

/-! ### Responses and errors -/

/-- The response code of an error (30_encoding.md R61). -/
def ErrorKind.code : ErrorKind → Code
  | .invalidKey => 1
  | .noInverse => 2
  | .emptyOrUnsetState => 3
  | .illegalCommand => 4

/-- Set the sticky flag of an error; the others stay (R26 (c)). -/
def ErrorFlags.raise (e : ErrorKind) (f : ErrorFlags) : ErrorFlags :=
  match e with
  | .invalidKey => { f with invalidKey := true }
  | .noInverse => { f with noInverse := true }
  | .emptyOrUnsetState => { f with emptyOrUnsetState := true }
  | .illegalCommand => { f with illegalCommand := true }

/-- The sticky flag of an error, EF[code]. -/
def ErrorFlags.get (f : ErrorFlags) : ErrorKind → Bool
  | .invalidKey => f.invalidKey
  | .noInverse => f.noInverse
  | .emptyOrUnsetState => f.emptyOrUnsetState
  | .illegalCommand => f.illegalCommand

/-- Give a response: it is offered to the host after every earlier one (R46, R60). -/
def State.give (code : Code) (data : Word) (s : State) : State :=
  { s with responses := s.responses ++ [⟨code, data⟩] }

/-- `respond(0, data)`: the command succeeds and is over (00_scope.md notation). -/
def respond (data : Word) (s : State) : Answer := .next (s.give 0 data)

/-- `raise e` (R140): set EF[code(e)], make no other change, and respond (code(e), 0). The next command runs like
any other, so this is a next state. -/
def raiseError (e : ErrorKind) (s : State) : Answer :=
  .next (State.give e.code 0 { s with ef := s.ef.raise e })

/-! ### Reset and the command port -/

/-- Clear EF[1..4] (40_control.md R74). -/
def State.clearErrors (s : State) : State := { s with ef := ⟨false, false, false, false⟩ }

/-- Put the architectural state in the reset state of R33, by `rst` or SRST (70_reset_and_hazards.md R160). What the
host still offers and the responses it has been given are not the block's state and stay (log entry 6). -/
def State.resetBlock (s : State) : State :=
  { s with m := State.reset.m, v := State.reset.v, k := State.reset.k, r := State.reset.r, ef := State.reset.ef }

/-- Take the oldest input from the port: it and the state without it, or nothing when the host offers nothing
(R46, R63). -/
def State.takeInput (s : State) : Option (HostInput × State) :=
  match s.inputs with
  | [] => none
  | x :: rest => some (x, { s with inputs := rest })

/-- Offer a command word to be taken before anything else on the port. -/
def State.offerNow (w : Word) (s : State) : State := { s with inputs := .command w :: s.inputs }

end Sys2Proof.Machine
end

