-- ==== Sys2Proof/Machine/Flags.lean ====
section
/-! DEFINITION. The flags of the block (10_state.md R26) read off the state, and the STATUS word built from them
(R27). There are no arithmetic condition codes. -/

namespace Sys2Proof.Machine

/-- MW[i]: M[i] is set. -/
def State.mw (s : State) (i : Fin 4) : Bool := (s.m.get i).isSome

/-- VW[i]: V[i] is set. -/
def State.vw (s : State) (i : Fin 2) : Bool := (s.v.get i).isSome

/-- RW[i]: R[i] is set. -/
def State.rw (s : State) (i : Fin 4) : Bool := (s.r.get i).isSome

/-- KV: a key is stored. -/
def State.kv (s : State) : Bool := s.k.isSome

/-- Four bits, the first argument bit 0. -/
def nibble (b0 b1 b2 b3 : Bool) : BitVec 4 :=
  BitVec.ofBool b3 ++ BitVec.ofBool b2 ++ BitVec.ofBool b1 ++ BitVec.ofBool b0

/-- STATUS, "built from the flags at the moment it runs": bits 31:20 zero, 19:16 EF[4..1], 15:12 RW[3..0], 11:10
zero, 9:8 VW[1..0], 7:4 MW[3..0], 3:1 zero, 0 KV (R27). -/
def State.status (s : State) : Word :=
  0#12
    ++ nibble s.ef.invalidKey s.ef.noInverse s.ef.emptyOrUnsetState s.ef.illegalCommand
    ++ nibble (s.rw 0) (s.rw 1) (s.rw 2) (s.rw 3)
    ++ 0#2 ++ BitVec.ofBool (s.vw 1) ++ BitVec.ofBool (s.vw 0)
    ++ nibble (s.mw 0) (s.mw 1) (s.mw 2) (s.mw 3)
    ++ 0#3 ++ BitVec.ofBool s.kv

end Sys2Proof.Machine
end

