-- ==== Sys2Proof/Machine/Operands.lean ====
section
/-! DEFINITION. Operands: what an immediate means (30_encoding.md R55), reading registers as mathematical integers
(00_scope.md R11), and storing an integer in a register of its width. A read of an unset register finds no value
(10_state.md R25). No command computes a value that does not fit (R7). -/

namespace Sys2Proof.Machine

/-! ### Immediates (R55) -/

/-- `sext_16(imm)` for LDM, whose register has 16 bits. -/
def immEntry (imm : BitVec 16) : Entry := imm

/-- `sext_16(imm)` for LDR, whose register has 32 bits. -/
def immResult (imm : BitVec 16) : Result := imm.signExtend 32

/-- `zext(imm)` for LDV, whose register has 5 bits; used for a legal symbol only. -/
def immSym (imm : BitVec 16) : Sym := imm.setWidth 5

/-! ### Integers into registers and words -/

/-- An integer in an M or K register. -/
def toEntry (x : Int) : Entry := BitVec.ofInt 16 x

/-- An integer in an R register. -/
def toResult (x : Int) : Result := BitVec.ofInt 32 x

/-- `tc32(v)`: the 32-bit two's-complement pattern of an integer (00_scope.md notation). -/
def tc32 (x : Int) : Word := BitVec.ofInt 32 x

/-! ### Register reads as integers -/

/-- Four 16-bit registers as a matrix of integers (42_matrix_ops.md R90). -/
def matrixOf (q : Quad Entry) : Quad Int := q.map BitVec.toInt

/-- Two 5-bit registers as a column of integers. -/
def columnOf (p : Pair Sym) : Pair Int := p.map fun x => (x.toNat : Int)

/-- The operand matrix, when all four M registers are set. -/
def State.readM (s : State) : Option (Quad Entry) := s.m.allSet

/-- The operand vector, when both V registers are set. -/
def State.readV (s : State) : Option (Pair Sym) := s.v.allSet

/-- The active key, when KV = 1. -/
def State.readK (s : State) : Option (Quad Entry) := s.k

/-- R[i], when it is set. -/
def State.readR (i : Fin 4) (s : State) : Option Result := s.r.get i

end Sys2Proof.Machine
end

