-- ==== Sys2Proof/Machine/Control.lean ====
section
/-! DEFINITION. The meanings of the control and data-movement commands (40_control.md R67 to R75). -/

namespace Sys2Proof.Machine

/-- NOP: "reads and writes no state" (R67). -/
def execNop (s : State) : Answer := respond 0 s

/-- LDM: `M[i] <- sext_16(imm)` (R68). -/
def execLdm (idx : Fin 4) (imm : BitVec 16) (s : State) : Answer :=
  respond 0 (s.writeM idx (immEntry imm))

/-- LDV: `V[i] <- zext(imm)`; IllegalCommand when `idx` ≥ 2 or `imm` ≥ 26, V and its tags as they were (R69). No
word decodes to such an LDV, so the refusal here is the decoder's over again (log entry 4). -/
def execLdv (idx : Fin 4) (imm : BitVec 16) (s : State) : Answer :=
  if h : idx.val < 2 then
    if ldvSymbolOk imm then respond 0 (s.writeV ⟨idx.val, h⟩ (immSym imm)) else raiseError .illegalCommand s
  else raiseError .illegalCommand s

/-- LDR: `R[i] <- sext_16(imm)` (R70). -/
def execLdr (idx : Fin 4) (imm : BitVec 16) (s : State) : Answer :=
  respond 0 (s.writeR idx (immResult imm))

/-- RDR: respond with `tc32(R[i])`, or EmptyOrUnsetState (R71). -/
def execRdr (idx : Fin 4) (s : State) : Answer :=
  match s.readR idx with
  | none => raiseError .emptyOrUnsetState s
  | some x => respond (tc32 x.toInt) s

/-- RDK: respond with `tc32(K[i])`, or EmptyOrUnsetState when KV = 0 (R72). -/
def execRdk (idx : Fin 4) (s : State) : Answer :=
  match s.readK with
  | none => raiseError .emptyOrUnsetState s
  | some q => respond (tc32 (q.get idx).toInt) s

/-- RDS: respond with STATUS; "legal in every state" (R73). -/
def execRds (s : State) : Answer := respond s.status s

/-- CLRE: EF[1..4] <- 0 and nothing else (R74). -/
def execClre (s : State) : Answer := respond 0 s.clearErrors

/-- SRST: the reset state of R33, and the response (0, 0) (R75, R160). -/
def execSrst (s : State) : Answer := respond 0 s.resetBlock

end Sys2Proof.Machine
end

