-- ==== Sys2Proof/Machine/Arith.lean ====
section
/-! DEFINITION. The functions of the three units, on exact integers (00_scope.md R11): `reduce` and `modInverse`
(41_modular_arithmetic.md), and the 2×2 matrix functions (42_matrix_ops.md). -/

namespace Sys2Proof.Machine

/-- `x tmod 26`, the remainder with the sign of the dividend (00_scope.md notation). -/
def tmod26 (x : Int) : Int := x.tmod Config.modulus

/-- `reduce`, line by line as R80 gives it. The line for a zero remainder is the spec's resolution of its source's
contradiction (90_conflicts.md C2; log entry 5). -/
def reduce (x : Int) : Int :=
  if 0 ≤ x then
    if x < Config.modulus then x else tmod26 x
  else if tmod26 x = 0 then 0
  else Config.modulus + tmod26 x

/-- The candidates 1, 2, ..., 25 in the order of R82's loop. -/
def inverseCandidates : List Int := (List.range' 1 25).map Int.ofNat

/-- `modInverse`: the first b in 1..25 with reduce(a · b) = 1, or none (R82). -/
def modInverse (a : Int) : Option Int :=
  inverseCandidates.find? fun b => reduce (a * b) = 1

/-- The raw determinant a·d − b·c (R91). -/
def determinant2x2 (q : Quad Int) : Int := q.e0 * q.e3 - q.e1 * q.e2

/-- `isValidKey`: D ≠ 0 and |D − 26| ≠ 1 on the raw determinant D (R93; 90_conflicts.md C1 and C3, log entry 5). -/
def isValidKey (q : Quad Int) : Bool :=
  determinant2x2 q != 0 && (determinant2x2 q - Config.modulus).natAbs != 1

/-- `adjugate`, the source's `cofactorMatrix2x2`: (d, −b, −c, a) (R94). -/
def adjugate (q : Quad Int) : Quad Int := ⟨q.e3, -q.e1, -q.e2, q.e0⟩

/-- `mulvec`: a 2×2 matrix times a column, not reduced (R95). -/
def mulvec (q : Quad Int) (p : Pair Int) : Pair Int :=
  ⟨q.e0 * p.e0 + q.e1 * p.e1, q.e2 * p.e0 + q.e3 * p.e1⟩

/-- `inverseKeyMod`: the adjugate times the inverse of the raw determinant, each entry reduced, or none when the
determinant has no inverse (R96). It "does not call isValidKey". -/
def inverseKeyMod (q : Quad Int) : Option (Quad Int) :=
  match modInverse (determinant2x2 q) with
  | none => none
  | some i => some ((adjugate q).map fun e => reduce (e * i))

end Sys2Proof.Machine
end

