-- ==== Sys2Proof/Machine/KeyOps.lean ====
section
/-! DEFINITION. The meanings of SETKEY, INVKEY, MULV and MULVR (43_key_and_matvec.md R111 to R114). -/

namespace Sys2Proof.Machine

/-- SETKEY: `K <- M`, KV <- 1 when M is valid; else KV <- 0 and InvalidKey, the one failure that changes more than
its EF bit. With some M[i] unset nothing changes and an earlier key stays (R111). -/
def execSetkey (s : State) : Answer :=
  match s.readM with
  | none => raiseError .emptyOrUnsetState s
  | some q => if isValidKey (matrixOf q) then respond 0 (s.writeK q) else raiseError .invalidKey s.dropK

/-- INVKEY: `K <- inverseKeyMod(K)`, KV stays 1; the inverse is not checked by `isValidKey` (R112;
92_eei_decisions.md D18, log entry 5). -/
def execInvkey (s : State) : Answer :=
  match s.readK with
  | none => raiseError .emptyOrUnsetState s
  | some q =>
    match inverseKeyMod (matrixOf q) with
    | none => raiseError .noInverse s
    | some n => respond 0 (s.writeK (n.map toEntry))

/-- MULV: `R[0..1] <- K times V`, not reduced (R113). -/
def execMulv (s : State) : Answer :=
  match s.readK, s.readV with
  | some q, some p => respond 0 (s.writeRLow ((mulvec (matrixOf q) (columnOf p)).map toResult))
  | _, _ => raiseError .emptyOrUnsetState s

/-- MULVR: `R[0..1] <- K times V`, each entry reduced (R114). -/
def execMulvr (s : State) : Answer :=
  match s.readK, s.readV with
  | some q, some p =>
    respond 0 (s.writeRLow ((mulvec (matrixOf q) (columnOf p)).map fun x => toResult (reduce x)))
  | _, _ => raiseError .emptyOrUnsetState s

end Sys2Proof.Machine
end

