-- ==== Sys2Proof/Machine/MatrixOps.lean ====
section
/-! DEFINITION. The meanings of DET, ADJ, KCHK and INVM, which work on the operand matrix M and never touch the key
(42_matrix_ops.md R98 to R101). -/

namespace Sys2Proof.Machine

/-- DET: `R[0] <- M[0]*M[3] - M[1]*M[2]` (R98). -/
def execDet (s : State) : Answer :=
  match s.readM with
  | none => raiseError .emptyOrUnsetState s
  | some q => respond 0 (s.writeR 0 (toResult (determinant2x2 (matrixOf q))))

/-- ADJ: `R[0..3] <- (M[3], -M[1], -M[2], M[0])`, nothing reduced (R99). -/
def execAdj (s : State) : Answer :=
  match s.readM with
  | none => raiseError .emptyOrUnsetState s
  | some q => respond 0 (s.writeRAll ((adjugate (matrixOf q)).map toResult))

/-- KCHK: respond 1 or 0 for `isValidKey(M)`; an invalid matrix is no error here (R100). -/
def execKchk (s : State) : Answer :=
  match s.readM with
  | none => raiseError .emptyOrUnsetState s
  | some q => respond (if isValidKey (matrixOf q) then 1 else 0) s

/-- INVM: `R[0..3] <- inverseKeyMod(M)`, or NoInverse with R kept; no validity check (R101). -/
def execInvm (s : State) : Answer :=
  match s.readM with
  | none => raiseError .emptyOrUnsetState s
  | some q =>
    match inverseKeyMod (matrixOf q) with
    | none => raiseError .noInverse s
    | some n => respond 0 (s.writeRAll (n.map toResult))

end Sys2Proof.Machine
end

