-- ==== Sys2Proof/Machine/ModularArith.lean ====
section
/-! DEFINITION. The meanings of RED and MINV (41_modular_arithmetic.md R84, R85). -/

namespace Sys2Proof.Machine

/-- RED: `R[i] <- reduce(R[i])`, or EmptyOrUnsetState (R84). -/
def execRed (idx : Fin 4) (s : State) : Answer :=
  match s.readR idx with
  | none => raiseError .emptyOrUnsetState s
  | some x => respond 0 (s.writeR idx (toResult (reduce x.toInt)))

/-- MINV: `R[i] <- modInverse(R[i])`; EmptyOrUnsetState, then NoInverse with R[i] kept (R85). -/
def execMinv (idx : Fin 4) (s : State) : Answer :=
  match s.readR idx with
  | none => raiseError .emptyOrUnsetState s
  | some x =>
    match modInverse x.toInt with
    | none => raiseError .noInverse s
    | some b => respond 0 (s.writeR idx (toResult b))

end Sys2Proof.Machine
end

