-- ==== Sys2Proof/Machine/Dispatch.lean ====
section
/-! DEFINITION. What each command does, one arm per constructor of `Instr`. -/

namespace Sys2Proof.Machine

def exec (i : Instr) (s : State) : Host.Outcome State Fault Refusal :=
  match i with
  | .nop => Sys2Proof.Machine.execNop s
  | .ldm idx imm => Sys2Proof.Machine.execLdm idx imm s
  | .ldv idx imm => Sys2Proof.Machine.execLdv idx imm s
  | .ldr idx imm => Sys2Proof.Machine.execLdr idx imm s
  | .rdr idx => Sys2Proof.Machine.execRdr idx s
  | .rdk idx => Sys2Proof.Machine.execRdk idx s
  | .rds => Sys2Proof.Machine.execRds s
  | .clre => Sys2Proof.Machine.execClre s
  | .srst => Sys2Proof.Machine.execSrst s
  | .red idx => Sys2Proof.Machine.execRed idx s
  | .minv idx => Sys2Proof.Machine.execMinv idx s
  | .det => Sys2Proof.Machine.execDet s
  | .adj => Sys2Proof.Machine.execAdj s
  | .kchk => Sys2Proof.Machine.execKchk s
  | .invm => Sys2Proof.Machine.execInvm s
  | .setkey => Sys2Proof.Machine.execSetkey s
  | .invkey => Sys2Proof.Machine.execInvkey s
  | .mulv => Sys2Proof.Machine.execMulv s
  | .mulvr => Sys2Proof.Machine.execMulvr s

end Sys2Proof.Machine
end

