-- ==== Sys2Proof/Machine/Execute.lean ====
section
/-! DEFINITION. The execution of one command word (40_control.md R65): decode first, reading no state; an illegal
word is not executed but answered with IllegalCommand (30_encoding.md R57). -/

namespace Sys2Proof.Machine

/-- `execute(cmd)` of R65. The checks after decoding are the meaning's own, in R65's order. -/
def execute (w : Word) (s : State) : Answer :=
  match decode w with
  | .ok i => exec i s
  | .error _ => raiseError .illegalCommand s

end Sys2Proof.Machine
end

