-- ==== Sys2Proof/Machine/Step.lean ====
section
/-! DEFINITION. One step: the block takes the host's oldest input and carries it out whole (20_memory.md R46). -/

namespace Sys2Proof.Machine

/-- With no input the block is idle and "keeps all state while idle" (60_exceptions.md R152; log entry 3). A command
word is executed. `rst` puts the block in the reset state without a response; a command in progress is abandoned
(70_reset_and_hazards.md R160). -/
def step (s : State) : Host.Outcome State Fault Refusal :=
  match s.takeInput with
  | none => .next s
  | some (.command w, s') => execute w s'
  | some (.reset, s') => .next s'.resetBlock
  | some (.resetDuring _, s') => .next s'.resetBlock

/-- `s` with the word offered on the command port ahead of everything else, so that the very next step runs it. -/
def State.withFetchWord (s : State) (nbits w : Nat) : State := s.offerNow (BitVec.ofNat 32 (w % 2 ^ nbits))

end Sys2Proof.Machine
end

