-- ==== Sys2Proof/Machine/HostSequences.lean ====
section
/-! DEFINITION. The host's side, on top of the block and outside its state: pseudo-commands and the source's calls
as sequences of commands (44_host_sequences.md R120 to R126). A pseudo-command "expands to the commands shown and
has no encoding of its own". -/

namespace Sys2Proof.Machine

/-- A symbol index 0..25 (R121). -/
abbrev Symbol := Fin 26

/-- The immediate of a symbol (30_encoding.md R55). -/
def symbolImm (x : Symbol) : BitVec 16 := BitVec.ofNat 16 x.val

/-! ### Pseudo-commands -/

/-- `SETKEY4 a, b, c, d` (R120). -/
def setkey4 (a b c d : BitVec 16) : List Instr := [.ldm 0 a, .ldm 1 b, .ldm 2 c, .ldm 3 d, .setkey]

/-- `ENCV x, y` (R121). -/
def encv (x y : Symbol) : List Instr :=
  [.ldv 0 (symbolImm x), .ldv 1 (symbolImm y), .mulvr, .rdr 0, .rdr 1]

/-- `REDUCE x` (R125). -/
def reduceCall (x : BitVec 16) : List Instr := [.ldr 0 x, .red 0, .rdr 0]

/-- `MODINV a` (R126). -/
def modinvCall (a : BitVec 16) : List Instr := [.ldr 0 a, .minv 0, .rdr 0]

/-- `INVKEYMOD a, b, c, d` (R126). -/
def invkeymodCall (a b c d : BitVec 16) : List Instr :=
  [.ldm 0 a, .ldm 1 b, .ldm 2 c, .ldm 3 d, .invm, .rdr 0, .rdr 1, .rdr 2, .rdr 3]

/-- The same determinant's inverse step by step (R126, third column). -/
def detInverseCall (a b c d : BitVec 16) : List Instr :=
  [.ldm 0 a, .ldm 1 b, .ldm 2 c, .ldm 3 d, .det, .minv 0, .rdr 0]

/-- `getResult()`, the end of each ENCV (R124). -/
def getResultCall : List Instr := [.rdr 0, .rdr 1]

/-! ### Issuing commands -/

/-- The host issues one word and the block runs it: the word goes on the port and the block takes a step. -/
def transact (w : Word) (s : State) : Answer := step (s.offerNow w)

/-- What the host has after issuing a sequence: the block's state, the data of every successful response in order,
and the code it stopped at, if any. -/
structure Issued where
  state : State
  data : List Word
  error : Option Code
  deriving DecidableEq, Repr

/-- Issue commands one by one. "The host stops at the first response whose code is not 0 and reports that error; the
commands after it are not issued" (44_host_sequences.md, opening; D25). -/
def issue : List Instr → State → Issued
  | [], s => ⟨s, [], none⟩
  | i :: rest, s =>
    match transact (encode i) s with
    | .next t =>
      match t.responses.getLast? with
      | none => ⟨t, [], none⟩
      | some a =>
        if a.code = 0 then ⟨(issue rest t).state, a.data :: (issue rest t).data, (issue rest t).error⟩
        else ⟨t, [], some a.code⟩
    | .fault _ => ⟨s, [], none⟩
    | .refused _ => ⟨s, [], none⟩

/-! ### encrypt and decrypt over column vectors -/

/-- What the host has after transforming vectors: the block's state, the output vectors, the code it stopped at. -/
structure Transformed where
  state : State
  output : List (Pair Symbol)
  error : Option Code
  deriving DecidableEq, Repr

/-- A response's data as a symbol index: the per-entry reduction of R131, already done by MULVR. -/
def symbolOfData (w : Word) : Symbol := Fin.ofNat 26 w.toNat

/-- `encrypt()` over column vectors: `ENCV xk, yk` in order, collecting p1, q1, p2, q2, ... (R122). With no vectors
no command is issued. -/
def encryptVectors : List (Pair Symbol) → State → Transformed
  | [], s => ⟨s, [], none⟩
  | p :: rest, s =>
    match issue (encv p.e0 p.e1) s with
    | ⟨t, [_, _, _, x, y], none⟩ =>
      ⟨(encryptVectors rest t).state, ⟨symbolOfData x, symbolOfData y⟩ :: (encryptVectors rest t).output,
        (encryptVectors rest t).error⟩
    | ⟨t, _, e⟩ => ⟨t, [], e⟩

/-- `decrypt()` over column vectors: INVKEY once, and if its code is 0 exactly as in R122 (R123). -/
def decryptVectors (ps : List (Pair Symbol)) (s : State) : Transformed :=
  match issue [.invkey] s with
  | ⟨t, _, none⟩ => encryptVectors ps t
  | ⟨t, _, some e⟩ => ⟨t, [], some e⟩

end Sys2Proof.Machine
end

