-- ==== Sys2Proof/Machine/Assembler.lean ====
section
/-! DEFINITION. The spec's textual form of a command and of the pseudo-commands (30_encoding.md R64;
44_host_sequences.md R120 to R126), as a function from one line of text to the commands it stands for. "The
assembler refuses operands outside the stated ranges, so it cannot produce an illegal word." -/

namespace Sys2Proof.Machine

/-! ### Reading text (log entry 8 for what R64 does not say of blanks and digits) -/

/-- A blank. -/
def isBlank (c : Char) : Bool := c == ' ' || c == '\t'

/-- Drop the blanks at both ends. -/
def trimBlanks (cs : List Char) : List Char := ((cs.dropWhile isBlank).reverse.dropWhile isBlank).reverse

/-- "`;` starts a comment": what stands before it. -/
def dropComment (cs : List Char) : List Char := cs.takeWhile (· != ';')

/-- "Operands separated by a comma." -/
def splitCommas : List Char → List (List Char)
  | [] => [[]]
  | c :: cs =>
    match splitCommas cs with
    | [] => [[c]]
    | x :: xs => if c == ',' then [] :: x :: xs else (c :: x) :: xs

/-- The value of decimal digits, most significant first. -/
def readDigits (n : Nat) : List Char → Option Nat
  | [] => some n
  | c :: cs => if c.isDigit then readDigits (10 * n + (c.toNat - 48)) cs else none

/-- A decimal integer, with a leading minus sign when negative. -/
def readInt : List Char → Option Int
  | [] => none
  | ['-'] => none
  | '-' :: ds => (readDigits 0 ds).map fun n => -(n : Int)
  | ds => (readDigits 0 ds).map fun n => (n : Int)

/-- The operands of a line: none, or integers separated by commas. -/
def readOperands (cs : List Char) : Option (List Int) :=
  if trimBlanks cs = [] then some []
  else (splitCommas cs).mapM fun x => readInt (trimBlanks x)

/-! ### Operand ranges -/

/-- i in 0..3. -/
def asmIndex (i : Int) : Option (Fin 4) :=
  if h : 0 ≤ i ∧ i < 4 then some ⟨i.toNat, by omega⟩ else none

/-- v in -32768..32767; "a negative v is encoded in two's complement". -/
def asmImm (v : Int) : Option (BitVec 16) :=
  if -32768 ≤ v ∧ v ≤ 32767 then some (BitVec.ofInt 16 v) else none

/-- s in 0..25. -/
def asmSymbol (s : Int) : Option Symbol :=
  if h : 0 ≤ s ∧ s < 26 then some ⟨s.toNat, by omega⟩ else none

/-- One command of R64 from its operands. -/
def asmOp (o : Op) (args : List Int) : Option Instr :=
  match o.format, args with
  | .z, [] => some (o.withOperands 0 0)
  | .x, [i] => (asmIndex i).map fun idx => o.withOperands idx 0
  | .xi, [i, v] =>
    match asmIndex i, asmImm v with
    | some idx, some imm =>
      if (o.withOperands idx imm).wellFormed then some (o.withOperands idx imm) else none
    | _, _ => none
  | _, _ => none

/-! ### Mnemonics -/

/-- The pseudo-commands of R120 to R126. -/
inductive PseudoOp where
  | setkey4 | encv | reduce | modinv | invkeymod
  deriving DecidableEq, Repr

/-- The expansion of a pseudo-command from its operands. -/
def asmPseudo (p : PseudoOp) (args : List Int) : Option (List Instr) :=
  match p, args with
  | .setkey4, [a, b, c, d] => do return setkey4 (← asmImm a) (← asmImm b) (← asmImm c) (← asmImm d)
  | .encv, [x, y] => do return encv (← asmSymbol x) (← asmSymbol y)
  | .reduce, [x] => do return reduceCall (← asmImm x)
  | .modinv, [a] => do return modinvCall (← asmImm a)
  | .invkeymod, [a, b, c, d] => do return invkeymodCall (← asmImm a) (← asmImm b) (← asmImm c) (← asmImm d)
  | _, _ => none

/-- "Mnemonics in capitals": the commands of R64. -/
def opMnemonics : List (List Char × Op) :=
  [(['N', 'O', 'P'], .nop), (['L', 'D', 'M'], .ldm), (['L', 'D', 'V'], .ldv), (['L', 'D', 'R'], .ldr),
    (['R', 'D', 'R'], .rdr), (['R', 'D', 'K'], .rdk), (['R', 'D', 'S'], .rds), (['C', 'L', 'R', 'E'], .clre),
    (['S', 'R', 'S', 'T'], .srst), (['R', 'E', 'D'], .red)] ++
  [(['M', 'I', 'N', 'V'], .minv), (['D', 'E', 'T'], .det), (['A', 'D', 'J'], .adj), (['K', 'C', 'H', 'K'], .kchk),
    (['I', 'N', 'V', 'M'], .invm), (['S', 'E', 'T', 'K', 'E', 'Y'], .setkey),
    (['I', 'N', 'V', 'K', 'E', 'Y'], .invkey), (['M', 'U', 'L', 'V'], .mulv), (['M', 'U', 'L', 'V', 'R'], .mulvr)]

/-- The pseudo-commands' names. -/
def pseudoMnemonics : List (List Char × PseudoOp) :=
  [(['S', 'E', 'T', 'K', 'E', 'Y', '4'], .setkey4), (['E', 'N', 'C', 'V'], .encv),
    (['R', 'E', 'D', 'U', 'C', 'E'], .reduce), (['M', 'O', 'D', 'I', 'N', 'V'], .modinv),
    (['I', 'N', 'V', 'K', 'E', 'Y', 'M', 'O', 'D'], .invkeymod)]

/-- The commands of one line of text; nothing when the assembler refuses it, no commands for a blank or comment
line. -/
def assembleLine (line : List Char) : Option (List Instr) :=
  let body := trimBlanks (dropComment line)
  let name := body.takeWhile (! isBlank ·)
  let rest := body.dropWhile (! isBlank ·)
  if body = [] then some []
  else
    match readOperands rest, opMnemonics.lookup name, pseudoMnemonics.lookup name with
    | some args, some o, _ => (asmOp o args).map fun i => [i]
    | some args, none, some p => asmPseudo p args
    | _, _, _ => none

/-- The words of one line of text (R51). -/
def assembleWords (line : List Char) : Option (List Word) := (assembleLine line).map fun is => is.map encode

end Sys2Proof.Machine
end

