-- ==== Sys2Proof/Machine/Codec.lean ====
section
/-! DEFINITION. The host's Alphabet and Codec (44_host_sequences.md R127 to R131): software around the block, which
binds the host and not the block. The order of the alphabet is in no source (91_not_in_source.md N3), so the table is
an argument everywhere. -/

namespace Sys2Proof.Machine

/-- `ALPHABET`: 26 different lowercase letters in some fixed order, the position of a letter being its index (R127).
The proofs travel with the table, so that no list that is not such a table can be used. -/
structure Alphabet where
  letters : List Char
  length_eq : letters.length = 26
  nodup : letters.Nodup
  lower : ∀ c ∈ letters, c.isLower = true

/-- `symbolAt`: the letter of an index (R127). -/
def Alphabet.symbolAt (a : Alphabet) (i : Symbol) : Char := a.letters.getD i.val 'a'

/-- `indexOf`: the index of a letter, or nothing for a character that is not in the table (R127 has "no error path";
normalised text never reaches that case). -/
def Alphabet.indexOf (a : Alphabet) (c : Char) : Option Symbol :=
  if h : a.letters.idxOf c < 26 then some ⟨a.letters.idxOf c, h⟩ else none

/-- Normalisation: "non-alphabetic characters stripped, case folded to a single case", which is lowercase (R128). A
character outside a..z and A..Z counts as non-alphabetic (log entry 9). -/
def normalizeText (msg : List Char) : List Char := (msg.filter Char.isAlpha).map Char.toLower

/-- Padding: an odd-length text is padded by duplicating its last character (R129). -/
def pad (msg : List Char) : List Char :=
  if msg.length % 2 = 1 then msg ++ msg.getLast?.toList else msg

/-- Vectorisation: consecutive pairs of indices, the first on top (R130). -/
def vectorize : List Symbol → List (Pair Symbol)
  | x :: y :: rest => ⟨x, y⟩ :: vectorize rest
  | [_] => []
  | [] => []

/-- `encode`: normalise, pad, look up, pair (R128 to R130). Nothing for a text that is empty after normalisation,
which the source gives no meaning (R129, 93_implementation_defined.md U16). -/
def encodeText (a : Alphabet) (msg : List Char) : Option (List (Pair Symbol)) :=
  if normalizeText msg = [] then none
  else ((pad (normalizeText msg)).mapM a.indexOf).map vectorize

/-- `decode`: flatten in order, top entry first, map through the alphabet, concatenate (R131). -/
def decodeText (a : Alphabet) (ps : List (Pair Symbol)) : List Char :=
  ps.flatMap fun p => [a.symbolAt p.e0, a.symbolAt p.e1]

/-- A text after a call of the source's software: the block's state, and the output text or the code of the
failure. -/
structure TextResult where
  state : State
  output : Except Code (List Char)

/-- Turn a transformation of vectors into text. -/
def Transformed.text (a : Alphabet) (x : Transformed) : TextResult :=
  match x.error with
  | none => ⟨x.state, .ok (decodeText a x.output)⟩
  | some e => ⟨x.state, .error e⟩

/-- The source's `encrypt()` on a text (R122). -/
def encryptText (a : Alphabet) (msg : List Char) (s : State) : Option TextResult :=
  (encodeText a msg).map fun ps => (encryptVectors ps s).text a

/-- The source's `decrypt()` on a text (R123). -/
def decryptText (a : Alphabet) (msg : List Char) (s : State) : Option TextResult :=
  (encodeText a msg).map fun ps => (decryptVectors ps s).text a

end Sys2Proof.Machine
end

