-- ==== Sys2Proof/Safety.lean ====
section
/-! DEFINITION. What counts as a safe run, and the words the statements are written in: the invariant, how a command
succeeds and how it fails, the illegal words of 30_encoding.md R57 on plain numbers, the causes of 60_exceptions.md
R141, the STATUS layout of 10_state.md R27 and the access matrix of R35. Everything here is written from the spec's
tables, not from the machine's definitions. -/

namespace Sys2Proof

namespace Machine

/-! ### The invariant (R32) and equal blocks (R30) -/

/-- R32 on what the registers' widths do not already say: a set V[i] is in 0..25 (b); the active key passes
`isValidKey` or has every entry in 0..25, according to which command wrote it last (e, f); and of the responses, no
code above 4, and data 0 on every failure (R60, R61). -/
def State.Inv (s : State) : Prop :=
  (∀ (i : Fin 2) (x : Sym), s.v.get i = some x → x.toNat ≤ 25) ∧
  (∀ q : Quad Entry, s.k = some q →
    isValidKey (matrixOf q) = true ∨ ∀ i : Fin 4, 0 ≤ (q.get i).toInt ∧ (q.get i).toInt ≤ 25) ∧
  (∀ a ∈ s.responses, a.code.toNat ≤ 4 ∧ (a.code ≠ 0 → a.data = 0))

/-- The two states are equal in the sense of R20, whatever is on their ports. -/
def State.sameBlock (s t : State) : Prop :=
  s.m = t.m ∧ s.v = t.v ∧ s.k = t.k ∧ s.r = t.r ∧ s.ef = t.ef

/-- The table of R33, and STATUS as RDS shows it. -/
def State.Unconfigured (s : State) : Prop :=
  (∀ i : Fin 4, s.m.get i = none ∧ s.r.get i = none) ∧ (∀ i : Fin 2, s.v.get i = none) ∧ s.k = none ∧
  (∀ e : ErrorKind, s.ef.get e = false) ∧ s.status = 0x00000000

/-! ### How a command ends -/

/-- From `s` to `t` exactly one response was given, after all earlier ones, and nothing was taken from the port. -/
def Replies (s t : State) (code : Code) (data : Word) : Prop :=
  t.responses = s.responses ++ [⟨code, data⟩] ∧ t.inputs = s.inputs

/-- `t` is `s` after `raise e` (R140): EF[code(e)] is set, no other change, the response is (code(e), 0). -/
def FailsWith (e : ErrorKind) (s t : State) : Prop :=
  t.m = s.m ∧ t.v = s.v ∧ t.k = s.k ∧ t.r = s.r ∧
  (∀ f : ErrorKind, t.ef.get f = (decide (f = e) || s.ef.get f)) ∧ Replies s t e.code 0

/-- The command with this answer fails with `e` and changes nothing else. -/
def Raises (a : Answer) (e : ErrorKind) (s : State) : Prop := ∃ t, a = .next t ∧ FailsWith e s t

/-- Commands in a row, each on the state the one before it left (20_memory.md R46). -/
def runAll : List Instr → State → Answer
  | [], s => .next s
  | i :: rest, s =>
    match exec i s with
    | .next t => runAll rest t
    | .fault f => .fault f
    | .refused r => .refused r

/-- The value a register holds, as an integer; nothing when it is unset. -/
def intOf {n : Nat} (x : Option (BitVec n)) : Option Int := x.map BitVec.toInt

/-- The response of `n` successful commands that return no data. -/
def okays (n : Nat) : List Response := List.replicate n ⟨0, 0⟩

/-! ### Words (R51, R56, R57), as numbers -/

/-- `cmd[31:24]`. -/
def wordOp (w : Word) : Nat := w.toNat / 2 ^ 24
/-- `cmd[23:22]`. -/
def wordRsv1 (w : Word) : Nat := w.toNat / 2 ^ 22 % 4
/-- `cmd[21:20]`. -/
def wordIdx (w : Word) : Nat := w.toNat / 2 ^ 20 % 4
/-- `cmd[19:16]`. -/
def wordRsv0 (w : Word) : Nat := w.toNat / 2 ^ 16 % 16
/-- `cmd[15:0]`. -/
def wordImm (w : Word) : Nat := w.toNat % 2 ^ 16

/-- The opcodes of format Z (R52, R56). -/
def opsZ : List Nat := [0x00, 0x0A, 0x0E, 0x0F, 0x20, 0x21, 0x22, 0x23, 0x30, 0x31, 0x32, 0x33]
/-- The opcodes of format X (R53, R56). -/
def opsX : List Nat := [0x08, 0x09, 0x10, 0x11]
/-- The opcodes of format XI (R54, R56). -/
def opsXI : List Nat := [0x01, 0x02, 0x03]

/-- The five items of R57. -/
def IllegalWord (w : Word) : Prop :=
  wordOp w ∉ opsZ ++ opsX ++ opsXI ∨
  (wordRsv1 w ≠ 0 ∨ wordRsv0 w ≠ 0) ∨
  (wordOp w ∈ opsZ ∧ (wordIdx w ≠ 0 ∨ wordImm w ≠ 0)) ∨
  (wordOp w ∈ opsX ∧ wordImm w ≠ 0) ∨
  (wordOp w = 0x02 ∧ (wordIdx w ≥ 2 ∨ wordImm w ≥ 26))

/-- `w` is the one word of the command `i`. -/
def EncodedAs (i : Instr) (w : Word) : Prop := ∀ u : Word, decode u = .ok i ↔ u = w

/-- Of the words with the opcode `op`, all but the `legal` ones raise IllegalCommand, in every state. -/
def RejectsOthers (op : Nat) (legal : Word → Prop) : Prop :=
  ∀ (u : Word) (s : State), wordOp u = op → ¬ legal u → Raises (execute u s) .illegalCommand s

/-- The word `base | (i << 20)` of a format X command. -/
def wordX (base : Word) (i : Fin 4) : Word := base ||| (BitVec.ofNat 32 i.val <<< 20)

/-- The word `base | (i << 20) | imm` of a format XI command. -/
def wordXI (base : Word) (i : Fin 4) (imm : BitVec 16) : Word :=
  base ||| (BitVec.ofNat 32 i.val <<< 20) ||| imm.setWidth 32

/-! ### Causes of errors (R141) -/

/-- Some M[i] is unset. -/
def State.someMUnset (s : State) : Prop := ∃ i : Fin 4, s.m.get i = none
/-- KV = 0, or some V[i] is unset. -/
def State.keyOrVectorUnset (s : State) : Prop := s.k = none ∨ ∃ i : Fin 2, s.v.get i = none
/-- All four M registers are set and hold the matrix `q`. -/
def State.mHolds (s : State) (q : Quad Entry) : Prop := ∀ i : Fin 4, s.m.get i = some (q.get i)
/-- Both V registers are set and hold the column `p`. -/
def State.vHolds (s : State) (p : Pair Sym) : Prop := ∀ i : Fin 2, s.v.get i = some (p.get i)

/-- The raw determinant a·d − b·c of four 16-bit registers (R91). -/
def detOf (q : Quad Entry) : Int := (q.get 0).toInt * (q.get 3).toInt - (q.get 1).toInt * (q.get 2).toInt

/-- The output vector `b` is the key `q` times the input vector `a`, modulo 26 (R122). -/
def TransformedBy (q : Quad Entry) (a b : Pair Symbol) : Prop :=
  (b.e0.val : Int) = ((q.get 0).toInt * a.e0.val + (q.get 1).toInt * a.e1.val) % 26 ∧
  (b.e1.val : Int) = ((q.get 2).toInt * a.e0.val + (q.get 3).toInt * a.e1.val) % 26

end Machine

open Machine

/-- The condition of EmptyOrUnsetState for each command (R141, code 3). -/
def Instr.Missing (s : State) : Instr → Prop
  | .rdr i | .red i | .minv i => s.r.get i = none
  | .det | .adj | .kchk | .invm | .setkey => s.someMUnset
  | .rdk _ | .invkey => s.k = none
  | .mulv | .mulvr => s.keyOrVectorUnset
  | .nop | .ldm _ _ | .ldv _ _ | .ldr _ _ | .rds | .clre | .srst => False

/-- The condition of InvalidKey (R141, code 1): SETKEY with a raw determinant of 0, 25 or 27. -/
def Instr.KeyRejected (s : State) (i : Instr) : Prop :=
  i = .setkey ∧ ∃ q, s.mHolds q ∧ (detOf q = 0 ∨ detOf q = 25 ∨ detOf q = 27)

/-- The condition of NoInverse (R141, code 2): gcd(operand, 26) ≠ 1, the operand being R[idx], the raw determinant of
M, or that of K. -/
def Instr.NotInvertible (s : State) : Instr → Prop
  | .minv i => ∃ x, s.r.get i = some x ∧ Int.gcd x.toInt 26 ≠ 1
  | .invm => ∃ q, s.mHolds q ∧ Int.gcd (detOf q) 26 ≠ 1
  | .invkey => ∃ q, s.k = some q ∧ Int.gcd (detOf q) 26 ≠ 1
  | .nop | .ldm _ _ | .ldv _ _ | .ldr _ _ | .rdr _ | .rdk _ | .rds | .clre | .srst | .red _ | .det | .adj
  | .kchk | .setkey | .mulv | .mulvr => False

namespace Machine

/-! ### STATUS (R27) -/

/-- The value R27's table gives each bit of STATUS. -/
def statusBit (s : State) : Nat → Bool
  | 0 => s.k.isSome
  | 4 => (s.m.get 0).isSome
  | 5 => (s.m.get 1).isSome
  | 6 => (s.m.get 2).isSome
  | 7 => (s.m.get 3).isSome
  | 8 => (s.v.get 0).isSome
  | 9 => (s.v.get 1).isSome
  | 12 => (s.r.get 0).isSome
  | 13 => (s.r.get 1).isSome
  | 14 => (s.r.get 2).isSome
  | 15 => (s.r.get 3).isSome
  | 16 => s.ef.invalidKey
  | 17 => s.ef.noInverse
  | 18 => s.ef.emptyOrUnsetState
  | 19 => s.ef.illegalCommand
  | _ => false

end Machine

/-! ### The access matrix (R35) -/

/-- Column M, `w`. -/
def Instr.writesM : Instr → Fin 4 → Prop
  | .ldm i _ => fun j => j = i
  | .srst => fun _ => True
  | .nop | .ldv _ _ | .ldr _ _ | .rdr _ | .rdk _ | .rds | .clre | .red _ | .minv _ | .det | .adj | .kchk | .invm
  | .setkey | .invkey | .mulv | .mulvr => fun _ => False

/-- Column V, `w`. -/
def Instr.writesV : Instr → Fin 2 → Prop
  | .ldv i _ => fun j => j.val = i.val
  | .srst => fun _ => True
  | .nop | .ldm _ _ | .ldr _ _ | .rdr _ | .rdk _ | .rds | .clre | .red _ | .minv _ | .det | .adj | .kchk | .invm
  | .setkey | .invkey | .mulv | .mulvr => fun _ => False

/-- Column K, KV, `w`. -/
def Instr.writesK : Instr → Prop
  | .setkey | .invkey | .srst => True
  | .nop | .ldm _ _ | .ldv _ _ | .ldr _ _ | .rdr _ | .rdk _ | .rds | .clre | .red _ | .minv _ | .det | .adj
  | .kchk | .invm | .mulv | .mulvr => False

/-- Columns R[0] to R[3], `w`. -/
def Instr.writesR : Instr → Fin 4 → Prop
  | .ldr i _ | .red i | .minv i => fun j => j = i
  | .det => fun j => j = 0
  | .adj | .invm | .srst => fun _ => True
  | .mulv | .mulvr => fun j => j = 0 ∨ j = 1
  | .nop | .ldm _ _ | .ldv _ _ | .rdr _ | .rdk _ | .rds | .clre | .kchk | .setkey | .invkey => fun _ => False

/-- Column EF, "clears all". -/
def Instr.clearsEF : Instr → Prop
  | .clre | .srst => True
  | .nop | .ldm _ _ | .ldv _ _ | .ldr _ _ | .rdr _ | .rdk _ | .rds | .red _ | .minv _ | .det | .adj | .kchk | .invm
  | .setkey | .invkey | .mulv | .mulvr => False

/-- The two states agree on everything the command reads according to R35 (columns `r`, and RDS's row). -/
def Instr.ReadsAgree (s t : State) : Instr → Prop
  | .rdr i | .red i | .minv i => s.r.get i = t.r.get i
  | .rdk i => s.k.map (Quad.get · i) = t.k.map (Quad.get · i)
  | .rds =>
    (∀ i : Fin 4, (s.m.get i).isSome = (t.m.get i).isSome) ∧ (∀ i : Fin 2, (s.v.get i).isSome = (t.v.get i).isSome) ∧
    s.k.isSome = t.k.isSome ∧ (∀ i : Fin 4, (s.r.get i).isSome = (t.r.get i).isSome) ∧ s.ef = t.ef
  | .det | .adj | .kchk | .invm | .setkey => s.m = t.m
  | .invkey => s.k = t.k
  | .mulv | .mulvr => s.k = t.k ∧ s.v = t.v
  | .nop | .ldm _ _ | .ldv _ _ | .ldr _ _ | .clre | .srst => True

end Sys2Proof
end

