-- ==== Sys2Proof/Certificates/Slice0/Obligations.lean ====
section
/-! DEFINITION. The statements for the provers. Each docstring names the rule of spec/ it formalises. A command
statement says the command's one encoding, that every other word with its opcode is refused, what it does when its
operands are present, what it leaves unchanged, and each error it can raise. -/

open Sys2Proof Sys2Proof.Machine

/-! ### Encoding -/

/-- The decoder and the encoder agree both ways: a word decodes to a command exactly when the command is well formed
and the word is its encoding (30_encoding.md sections 1 to 4). -/
def Obligations.DecodeEncodeRoundTrip : Prop :=
  ∀ (w : Word) (i : Instr), decode w = .ok i ↔ i.wellFormed = true ∧ encode i = w

/-- R57: the words of the five items, and only those, are illegal, and an illegal word sets EF[4], responds (4, 0)
and changes nothing else. -/
def Obligations.IllegalWordsOnlySetEF4 : Prop :=
  ∀ (w : Word) (s : State),
    (IllegalWord w → Raises (execute w s) .illegalCommand s) ∧
    (¬ IllegalWord w → ∃ i : Instr, decode w = .ok i ∧ execute w s = exec i s)

/-- The counts of 30_encoding.md section 4, over what the decoder accepts: 12 words decode to a command of format Z, 16
to one of format X, 524288 to LDM or LDR, 52 to LDV, and 524368 to any command. -/
def Obligations.LegalWordCount : Prop :=
  Nat.card { w : Word // ∃ i, decode w = .ok i ∧ i.op.format = .z } = 12 ∧
  Nat.card { w : Word // ∃ i, decode w = .ok i ∧ i.op.format = .x } = 16 ∧
  Nat.card { w : Word // ∃ i, decode w = .ok i ∧ (i.op = .ldm ∨ i.op = .ldr) } = 524288 ∧
  Nat.card { w : Word // ∃ i, decode w = .ok i ∧ i.op = .ldv } = 52 ∧
  Nat.card { w : Word // ∃ i, decode w = .ok i } = 524368

/-- Words the spec's rules and test vectors write out decode to the commands they stand for, one of each family and
format at least. -/
def Obligations.WordsOfTheSpecDecode : Prop :=
  decode 0x00000000 = .ok .nop ∧ decode 0x0110FFFD = .ok (.ldm 1 0xFFFD) ∧
  decode 0x02000019 = .ok (.ldv 0 25) ∧ decode 0x0320FFFF = .ok (.ldr 2 0xFFFF) ∧
  decode 0x08300000 = .ok (.rdr 3) ∧ decode 0x09100000 = .ok (.rdk 1) ∧
  decode 0x11100000 = .ok (.minv 1) ∧ decode 0x23000000 = .ok .invm ∧ decode 0x33000000 = .ok .mulvr

/-! ### The step -/

/-- A step takes the oldest input off the port and, when it is a command word, executes that word on the state without
it, whatever the word: a word that decodes to `i` runs `exec i`, and a word that does not decode raises IllegalCommand
(20_memory.md R46, 40_control.md R65). That the words stand on a port in the state is the model's choice (log
entry 1). -/
def Obligations.StepRunsTheDecodedCommand : Prop :=
  ∀ (s : State) (w : Word) (rest : List HostInput), s.inputs = .command w :: rest →
    step s = execute w { s with inputs := rest } ∧
    (∀ i : Instr, decode w = .ok i → step s = exec i { s with inputs := rest }) ∧
    (∀ e : DecodeError, decode w = .error e → Raises (step s) .illegalCommand { s with inputs := rest })

/-- With nothing on the port the step changes nothing (60_exceptions.md R152: "keeps all state while idle"). That the
port is empty after reset, so that a step from reset with nothing placed is idle, is the model's choice (log
entries 1 and 3). -/
def Obligations.IdleStepKeepsTheState : Prop :=
  (∀ s : State, s.inputs = [] → step s = .next s) ∧ step State.reset = .next State.reset

/-- R160: `rst`, between commands or during one, puts every register in the state after reset and gives no response
to a command it interrupts; SRST leaves the same block and answers (0, 0). That the host's further inputs and earlier
responses stay is the model's choice (log entry 6). -/
def Obligations.ResetInputAndSrstAgree : Prop :=
  ∀ (s : State) (rest : List HostInput) (w : Word),
    (s.inputs = .reset :: rest ∨ s.inputs = .resetDuring w :: rest →
      ∃ t, step s = .next t ∧ t.sameBlock State.reset ∧ t.responses = s.responses ∧ t.inputs = rest) ∧
    (∃ u, exec .srst s = .next u ∧ u.sameBlock State.reset ∧ Replies s u 0 0)

/-- R33: after a hardware reset and after SRST every tag is 0, there is no key, EF is clear, and STATUS is
0x00000000. -/
def Obligations.ResetStateIsUnconfigured : Prop :=
  State.reset.Unconfigured ∧
  ∀ s : State,
    (∀ rest : List HostInput, s.inputs = .reset :: rest → ∃ t, step s = .next t ∧ t.Unconfigured) ∧
    (∃ t, exec .srst s = .next t ∧ t.Unconfigured)

/-- R162: in the state after reset NOP, LDM, LDV, LDR, RDS, CLRE and SRST succeed, and RDR, RDK, RED, MINV, DET,
ADJ, KCHK, INVM, SETKEY, INVKEY, MULV and MULVR fail with EmptyOrUnsetState (code 3). -/
def Obligations.CommandsStraightAfterReset : Prop :=
  ∀ s : State, s.sameBlock State.reset →
    (∀ (i : Fin 4) (v : BitVec 16) (j : Fin 4) (y : BitVec 16), j.val < 2 → y.toNat < 26 →
      ∀ c ∈ [Instr.nop, .ldm i v, .ldv j y, .ldr i v, .rds, .clre, .srst],
        ∃ t data, exec c s = .next t ∧ Replies s t 0 data) ∧
    (∀ i : Fin 4,
      ∀ c ∈ [Instr.rdr i, .rdk i, .red i, .minv i, .det, .adj, .kchk, .invm, .setkey, .invkey, .mulv, .mulvr],
        Raises (exec c s) .emptyOrUnsetState s)

/-! ### Control and data movement (40_control.md) -/

/-- R67: NOP, the word 0x00000000, answers (0, 0) and changes no state; every other word with opcode 0 is
refused. -/
def Obligations.NopChangesNothing : Prop :=
  EncodedAs .nop 0x00000000 ∧ RejectsOthers 0x00 (· = 0x00000000) ∧
  ∀ s : State, ∃ t, exec .nop s = .next t ∧ Replies s t 0 0 ∧ t.sameBlock s

/-- R68: LDM writes the sign-extended immediate to M[i], sets MW[i], and leaves the other M registers, K, V, R and EF
alone; only reserved bits make an LDM word illegal. -/
def Obligations.LdmLoadsOneMatrixEntry : Prop :=
  (∀ (i : Fin 4) (imm : BitVec 16), EncodedAs (.ldm i imm) (wordXI 0x01000000 i imm)) ∧
  RejectsOthers 0x01 (fun w => ∃ i imm, w = wordXI 0x01000000 i imm) ∧
  ∀ (s : State) (i : Fin 4) (imm : BitVec 16),
    ∃ t, exec (.ldm i imm) s = .next t ∧ Replies s t 0 0 ∧
      intOf (t.m.get i) = some imm.toInt ∧ (∀ j, j ≠ i → t.m.get j = s.m.get j) ∧
      t.v = s.v ∧ t.k = s.k ∧ t.r = s.r ∧ t.ef = s.ef

/-- LDV as 40_control.md R69 has it: LDV with an index of 0 or 1 and a value of at most 25 writes that value to V[i], sets VW[i] and leaves the
rest alone; every other word with its opcode is refused. That the term LDV with an operand out of range, to which no
word decodes, raises IllegalCommand and leaves V and VW as they were is the model's reading (log entry 4). -/
def Obligations.LdvLoadsOneSymbol : Prop :=
  (∀ (i : Fin 4) (imm : BitVec 16), i.val < 2 → imm.toNat ≤ 25 → EncodedAs (.ldv i imm) (wordXI 0x02000000 i imm)) ∧
  RejectsOthers 0x02 (fun w => ∃ i imm, i.val < 2 ∧ imm.toNat ≤ 25 ∧ w = wordXI 0x02000000 i imm) ∧
  ∀ (s : State) (i : Fin 4) (imm : BitVec 16),
    (∀ j : Fin 2, j.val = i.val → imm.toNat ≤ 25 →
      ∃ t, exec (.ldv i imm) s = .next t ∧ Replies s t 0 0 ∧
        (t.v.get j).map BitVec.toNat = some imm.toNat ∧ (∀ n, n ≠ j → t.v.get n = s.v.get n) ∧
        t.m = s.m ∧ t.k = s.k ∧ t.r = s.r ∧ t.ef = s.ef) ∧
    (2 ≤ i.val ∨ 26 ≤ imm.toNat → Raises (exec (.ldv i imm) s) .illegalCommand s)

/-- R70: LDR writes the sign-extended immediate to R[i], sets RW[i], and leaves the rest alone. Values outside 16 bits
reach R only as results of DET, ADJ and MULV. -/
def Obligations.LdrLoadsOneResult : Prop :=
  (∀ (i : Fin 4) (imm : BitVec 16), EncodedAs (.ldr i imm) (wordXI 0x03000000 i imm)) ∧
  RejectsOthers 0x03 (fun w => ∃ i imm, w = wordXI 0x03000000 i imm) ∧
  (∀ (s : State) (i : Fin 4) (imm : BitVec 16),
    ∃ t, exec (.ldr i imm) s = .next t ∧ Replies s t 0 0 ∧
      intOf (t.r.get i) = some imm.toInt ∧ (∀ j, j ≠ i → t.r.get j = s.r.get j) ∧
      t.m = s.m ∧ t.v = s.v ∧ t.k = s.k ∧ t.ef = s.ef) ∧
  ∀ (c : Instr) (s t : State) (j : Fin 4) (x : Result), exec c s = .next t → t.r.get j = some x →
    x.toInt < -32768 ∨ 32767 < x.toInt → s.r.get j = some x ∨ c = .det ∨ c = .adj ∨ c = .mulv

/-- R71: RDR answers with the two's-complement pattern of a set R[i] and changes nothing; an unset R[i] raises
EmptyOrUnsetState. -/
def Obligations.RdrReadsOneResult : Prop :=
  (∀ i : Fin 4, EncodedAs (.rdr i) (wordX 0x08000000 i)) ∧
  RejectsOthers 0x08 (fun w => ∃ i, w = wordX 0x08000000 i) ∧
  ∀ (s : State) (i : Fin 4),
    (∀ x : Result, s.r.get i = some x →
      ∃ t data, exec (.rdr i) s = .next t ∧ Replies s t 0 data ∧ data.toInt = x.toInt ∧ t.sameBlock s) ∧
    (s.r.get i = none → Raises (exec (.rdr i) s) .emptyOrUnsetState s)

/-- R72: RDK answers with the sign-extended K[i] when a key is stored and changes nothing; with KV = 0 it raises
EmptyOrUnsetState. -/
def Obligations.RdkReadsOneKeyEntry : Prop :=
  (∀ i : Fin 4, EncodedAs (.rdk i) (wordX 0x09000000 i)) ∧
  RejectsOthers 0x09 (fun w => ∃ i, w = wordX 0x09000000 i) ∧
  ∀ (s : State) (i : Fin 4),
    (∀ q : Quad Entry, s.k = some q →
      ∃ t data, exec (.rdk i) s = .next t ∧ Replies s t 0 data ∧ data.toInt = (q.get i).toInt ∧ t.sameBlock s) ∧
    (s.k = none → Raises (exec (.rdk i) s) .emptyOrUnsetState s)

/-- R27: every bit of STATUS is the flag the table names, and every other bit is 0. -/
def Obligations.StatusLayout : Prop :=
  ∀ (s : State) (b : Nat), b < 32 → s.status.getLsbD b = statusBit s b

/-- R73: RDS answers with STATUS in every state, changes nothing, and so clears no error flag. -/
def Obligations.RdsReadsStatus : Prop :=
  EncodedAs .rds 0x0A000000 ∧ RejectsOthers 0x0A (· = 0x0A000000) ∧
  ∀ s : State, ∃ t data, exec .rds s = .next t ∧ Replies s t 0 data ∧
    (∀ b : Nat, b < 32 → data.getLsbD b = statusBit s b) ∧ t.sameBlock s

/-- R74: CLRE clears EF[1..4], answers (0, 0) and touches nothing else. -/
def Obligations.ClreClearsTheErrorFlags : Prop :=
  EncodedAs .clre 0x0E000000 ∧ RejectsOthers 0x0E (· = 0x0E000000) ∧
  ∀ s : State, ∃ t, exec .clre s = .next t ∧ Replies s t 0 0 ∧ (∀ e : ErrorKind, t.ef.get e = false) ∧
    t.m = s.m ∧ t.v = s.v ∧ t.k = s.k ∧ t.r = s.r

/-- R75: SRST unsets every register, drops the key, clears EF and answers (0, 0); a following RDS gives
0x00000000. -/
def Obligations.SrstResetsTheBlock : Prop :=
  EncodedAs .srst 0x0F000000 ∧ RejectsOthers 0x0F (· = 0x0F000000) ∧
  ∀ s : State, ∃ t u, exec .srst s = .next t ∧ Replies s t 0 0 ∧
    (∀ i : Fin 4, t.m.get i = none ∧ t.r.get i = none) ∧ (∀ i : Fin 2, t.v.get i = none) ∧ t.k = none ∧
    (∀ e : ErrorKind, t.ef.get e = false) ∧ exec .rds t = .next u ∧ Replies t u 0 0x00000000

/-! ### Modular arithmetic (41_modular_arithmetic.md) -/

/-- R81: `reduce` is the Euclidean remainder, so it lies in 0..25, keeps 0..25, is idempotent, ignores
multiples of 26 and respects sums and products. -/
def Obligations.ReduceIsTheEuclideanRemainder : Prop :=
  ∀ x y k : Int,
    (0 ≤ reduce x ∧ reduce x ≤ 25) ∧ reduce x = x % 26 ∧ (0 ≤ x ∧ x ≤ 25 → reduce x = x) ∧
    reduce (reduce x) = reduce x ∧ reduce (x + 26 * k) = reduce x ∧
    reduce (x + y) = reduce (reduce x + reduce y) ∧ reduce (x * y) = reduce (reduce x * reduce y)

/-- R82: `modInverse a` is the one b in 1..25 with reduce(a · b) = 1; there is one exactly when gcd(a, 26) = 1, that
is when a is odd and no multiple of 13; and it depends on reduce(a) alone. -/
def Obligations.ModInverseIsTheOneInverse : Prop :=
  ∀ a : Int,
    (∀ b : Int, modInverse a = some b ↔ 1 ≤ b ∧ b ≤ 25 ∧ reduce (a * b) = 1) ∧
    ((∃ b, modInverse a = some b) ↔ Int.gcd a 26 = 1) ∧
    (Int.gcd a 26 = 1 ↔ ¬ (2 : Int) ∣ a ∧ ¬ (13 : Int) ∣ a) ∧
    modInverse a = modInverse (reduce a)

/-- R83: the inverse table, for every integer, and that the inverse of an inverse is the reduced number. -/
def Obligations.ModInverseTable : Prop :=
  ∀ a : Int,
    modInverse a =
      (match reduce a with
        | 1 => some 1 | 3 => some 9 | 5 => some 21 | 7 => some 15 | 9 => some 3 | 11 => some 19
        | 15 => some 7 | 17 => some 23 | 19 => some 11 | 21 => some 5 | 23 => some 17 | 25 => some 25
        | _ => none) ∧
    (∀ b : Int, modInverse a = some b → modInverse b = some (reduce a))

/-- R84: RED replaces a set R[i] by its reduction, sets no flag and leaves the rest alone; an unset R[i] raises
EmptyOrUnsetState. -/
def Obligations.RedReducesInPlace : Prop :=
  (∀ i : Fin 4, EncodedAs (.red i) (wordX 0x10000000 i)) ∧
  RejectsOthers 0x10 (fun w => ∃ i, w = wordX 0x10000000 i) ∧
  ∀ (s : State) (i : Fin 4),
    (∀ x : Result, s.r.get i = some x →
      ∃ t, exec (.red i) s = .next t ∧ Replies s t 0 0 ∧ intOf (t.r.get i) = some (x.toInt % 26) ∧
        (∀ j, j ≠ i → t.r.get j = s.r.get j) ∧ t.m = s.m ∧ t.v = s.v ∧ t.k = s.k ∧ t.ef = s.ef) ∧
    (s.r.get i = none → Raises (exec (.red i) s) .emptyOrUnsetState s)

/-- R85: MINV replaces a set R[i] that is coprime to 26 by its inverse in 1..25; one that is not raises NoInverse and
keeps the operand; an unset R[i] raises EmptyOrUnsetState. -/
def Obligations.MinvInvertsInPlace : Prop :=
  (∀ i : Fin 4, EncodedAs (.minv i) (wordX 0x11000000 i)) ∧
  RejectsOthers 0x11 (fun w => ∃ i, w = wordX 0x11000000 i) ∧
  ∀ (s : State) (i : Fin 4),
    (∀ x : Result, s.r.get i = some x → Int.gcd x.toInt 26 = 1 →
      ∃ t b, exec (.minv i) s = .next t ∧ Replies s t 0 0 ∧ intOf (t.r.get i) = some b ∧
        1 ≤ b ∧ b ≤ 25 ∧ (x.toInt * b) % 26 = 1 ∧
        (∀ j, j ≠ i → t.r.get j = s.r.get j) ∧ t.m = s.m ∧ t.v = s.v ∧ t.k = s.k ∧ t.ef = s.ef) ∧
    (∀ x : Result, s.r.get i = some x → Int.gcd x.toInt 26 ≠ 1 → Raises (exec (.minv i) s) .noInverse s) ∧
    (s.r.get i = none → Raises (exec (.minv i) s) .emptyOrUnsetState s)

/-! ### Matrix operations (42_matrix_ops.md) -/

/-- R92: for 16-bit entries the raw determinant lies in -2147450880..2147450880, both ends are reached, and a 32-bit
register holds it unchanged. -/
def Obligations.DeterminantFitsThirtyTwoBits : Prop :=
  (∀ q : Quad Entry,
    -2147450880 ≤ determinant2x2 (matrixOf q) ∧ determinant2x2 (matrixOf q) ≤ 2147450880 ∧
    (toResult (determinant2x2 (matrixOf q))).toInt = determinant2x2 (matrixOf q)) ∧
  determinant2x2 ⟨-32768, -32768, 32767, -32768⟩ = 2147450880 ∧
  determinant2x2 ⟨32767, -32768, -32768, -32768⟩ = -2147450880

/-- R93: a key is invalid exactly when its raw determinant is 0, 25 or 27. -/
def Obligations.KeyInvalidOnlyForThreeDeterminants : Prop :=
  ∀ q : Quad Int,
    (isValidKey q = true ↔ determinant2x2 q ≠ 0 ∧ |determinant2x2 q - 26| ≠ 1) ∧
    (isValidKey q = false ↔ determinant2x2 q = 0 ∨ determinant2x2 q = 25 ∨ determinant2x2 q = 27)

/-- R94: the adjugate is (d, -b, -c, a), multiplies the matrix from either side to the determinant times the
identity, and for 16-bit entries lies in -32768..32768, which a 32-bit register holds unchanged. R94 gives the bound
as -32767..32768, which its own unnegated entries a and d overstep at -32768 (95_test_vectors.md T3.6; log
entry 10). -/
def Obligations.AdjugateTimesMatrixIsDeterminant : Prop :=
  (∀ a b c d : Int, adjugate ⟨a, b, c, d⟩ = ⟨d, -b, -c, a⟩) ∧
  (∀ q : Quad Int,
    mulvec q ⟨(adjugate q).e0, (adjugate q).e2⟩ = ⟨determinant2x2 q, 0⟩ ∧
    mulvec q ⟨(adjugate q).e1, (adjugate q).e3⟩ = ⟨0, determinant2x2 q⟩ ∧
    mulvec (adjugate q) ⟨q.e0, q.e2⟩ = ⟨determinant2x2 q, 0⟩ ∧
    mulvec (adjugate q) ⟨q.e1, q.e3⟩ = ⟨0, determinant2x2 q⟩) ∧
  (∀ (q : Quad Entry) (i : Fin 4),
    -32768 ≤ ((adjugate (matrixOf q)).get i) ∧ ((adjugate (matrixOf q)).get i) ≤ 32768 ∧
    (toResult ((adjugate (matrixOf q)).get i)).toInt = (adjugate (matrixOf q)).get i)

/-- R95 in the hardware's one shape: both sums of products, and for 16-bit entries and symbols 0..25 the bounds
-1638400..1638350, which a 32-bit register holds unchanged. -/
def Obligations.MulvecIsTwoSumsOfProducts : Prop :=
  ∀ (q : Quad Entry) (p : Pair Sym), p.e0.toNat ≤ 25 → p.e1.toNat ≤ 25 →
    mulvec (matrixOf q) (columnOf p) =
      ⟨q.e0.toInt * p.e0.toNat + q.e1.toInt * p.e1.toNat, q.e2.toInt * p.e0.toNat + q.e3.toInt * p.e1.toNat⟩ ∧
    ∀ i : Fin 2,
      -1638400 ≤ (mulvec (matrixOf q) (columnOf p)).get i ∧ (mulvec (matrixOf q) (columnOf p)).get i ≤ 1638350 ∧
      (toResult ((mulvec (matrixOf q) (columnOf p)).get i)).toInt = (mulvec (matrixOf q) (columnOf p)).get i

/-- R96: `inverseKeyMod` multiplies each entry of the adjugate by the inverse of the raw determinant and reduces it;
it fails exactly for want of that inverse; every entry of the result is in 0..25; and for 16-bit entries no
intermediate product exceeds 819200 in magnitude. -/
def Obligations.InverseKeyIsScaledAdjugate : Prop :=
  ∀ m : Quad Int,
    (∀ i : Int, modInverse (determinant2x2 m) = some i →
      inverseKeyMod m = some ⟨reduce (m.e3 * i), reduce (-m.e1 * i), reduce (-m.e2 * i), reduce (m.e0 * i)⟩) ∧
    (inverseKeyMod m = none ↔ Int.gcd (determinant2x2 m) 26 ≠ 1) ∧
    (∀ (n : Quad Int) (j : Fin 4), inverseKeyMod m = some n → 0 ≤ n.get j ∧ n.get j ≤ 25) ∧
    (∀ (q : Quad Entry) (i : Int) (j : Fin 4), modInverse (determinant2x2 (matrixOf q)) = some i →
      |(adjugate (matrixOf q)).get j * i| ≤ 819200)

/-- R97: when it exists, `inverseKeyMod m` is the inverse of m modulo 26 on both sides, and inverting twice gives
back the entries of m reduced. -/
def Obligations.InverseKeyInvertsModTwentySix : Prop :=
  ∀ m n : Quad Int, inverseKeyMod m = some n →
    (mulvec m ⟨n.e0, n.e2⟩).map reduce = ⟨1, 0⟩ ∧ (mulvec m ⟨n.e1, n.e3⟩).map reduce = ⟨0, 1⟩ ∧
    (mulvec n ⟨m.e0, m.e2⟩).map reduce = ⟨1, 0⟩ ∧ (mulvec n ⟨m.e1, m.e3⟩).map reduce = ⟨0, 1⟩ ∧
    inverseKeyMod n = some (m.map reduce)

/-- R98: DET writes the raw determinant of M to R[0] and leaves M and the rest alone; any unset M[i] raises
EmptyOrUnsetState. -/
def Obligations.DetWritesTheRawDeterminant : Prop :=
  EncodedAs .det 0x20000000 ∧ RejectsOthers 0x20 (· = 0x20000000) ∧
  ∀ s : State,
    (∀ q : Quad Entry, s.mHolds q →
      ∃ t, exec .det s = .next t ∧ Replies s t 0 0 ∧ intOf (t.r.get 0) = some (detOf q) ∧
        (∀ j, j ≠ 0 → t.r.get j = s.r.get j) ∧ t.m = s.m ∧ t.v = s.v ∧ t.k = s.k ∧ t.ef = s.ef) ∧
    (s.someMUnset → Raises (exec .det s) .emptyOrUnsetState s)

/-- R99: ADJ writes (M[3], -M[1], -M[2], M[0]) to R[0..3], exactly and not reduced, and leaves the rest alone; any
unset M[i] raises EmptyOrUnsetState. -/
def Obligations.AdjWritesTheAdjugate : Prop :=
  EncodedAs .adj 0x21000000 ∧ RejectsOthers 0x21 (· = 0x21000000) ∧
  ∀ s : State,
    (∀ q : Quad Entry, s.mHolds q →
      ∃ t, exec .adj s = .next t ∧ Replies s t 0 0 ∧
        intOf (t.r.get 0) = some (q.get 3).toInt ∧ intOf (t.r.get 1) = some (-(q.get 1).toInt) ∧
        intOf (t.r.get 2) = some (-(q.get 2).toInt) ∧ intOf (t.r.get 3) = some (q.get 0).toInt ∧
        t.m = s.m ∧ t.v = s.v ∧ t.k = s.k ∧ t.ef = s.ef) ∧
    (s.someMUnset → Raises (exec .adj s) .emptyOrUnsetState s)

/-- R100: KCHK answers 0 when the raw determinant of M is 0, 25 or 27 and 1 otherwise, with code 0 and no change at
all; any unset M[i] raises EmptyOrUnsetState. -/
def Obligations.KchkAnswersTheValidity : Prop :=
  EncodedAs .kchk 0x22000000 ∧ RejectsOthers 0x22 (· = 0x22000000) ∧
  ∀ s : State,
    (∀ q : Quad Entry, s.mHolds q →
      ∃ t data, exec .kchk s = .next t ∧ Replies s t 0 data ∧ t.sameBlock s ∧
        (detOf q = 0 ∨ detOf q = 25 ∨ detOf q = 27 → data = 0) ∧
        (detOf q ≠ 0 ∧ detOf q ≠ 25 ∧ detOf q ≠ 27 → data = 1)) ∧
    (s.someMUnset → Raises (exec .kchk s) .emptyOrUnsetState s)

/-- R101: INVM writes the inverse of M modulo 26 to R[0..3], whether or not M is a valid key, and leaves the rest
alone; a determinant not coprime to 26 raises NoInverse, with R kept; any unset M[i] raises EmptyOrUnsetState. -/
def Obligations.InvmWritesTheInverse : Prop :=
  EncodedAs .invm 0x23000000 ∧ RejectsOthers 0x23 (· = 0x23000000) ∧
  ∀ s : State,
    (∀ q : Quad Entry, s.mHolds q → Int.gcd (detOf q) 26 = 1 →
      ∃ t n, exec .invm s = .next t ∧ Replies s t 0 0 ∧ inverseKeyMod (matrixOf q) = some n ∧
        (∀ j : Fin 4, intOf (t.r.get j) = some (n.get j)) ∧ t.m = s.m ∧ t.v = s.v ∧ t.k = s.k ∧ t.ef = s.ef) ∧
    (∀ q : Quad Entry, s.mHolds q → Int.gcd (detOf q) 26 ≠ 1 → Raises (exec .invm s) .noInverse s) ∧
    (s.someMUnset → Raises (exec .invm s) .emptyOrUnsetState s)

/-! ### Key commands and the multiplier (43_key_and_matvec.md) -/

/-- R111: SETKEY copies a valid M to K raw and sets KV; an invalid M sets KV to 0, whatever key there was, and raises
InvalidKey; with some M[i] unset it raises EmptyOrUnsetState and K and KV keep their values. M is never changed. -/
def Obligations.SetkeyInstallsOrDropsTheKey : Prop :=
  EncodedAs .setkey 0x30000000 ∧ RejectsOthers 0x30 (· = 0x30000000) ∧
  ∀ s : State,
    (∀ q : Quad Entry, s.mHolds q → detOf q ≠ 0 → detOf q ≠ 25 → detOf q ≠ 27 →
      ∃ t, exec .setkey s = .next t ∧ Replies s t 0 0 ∧ t.k = some q ∧
        t.m = s.m ∧ t.v = s.v ∧ t.r = s.r ∧ t.ef = s.ef) ∧
    (∀ q : Quad Entry, s.mHolds q → detOf q = 0 ∨ detOf q = 25 ∨ detOf q = 27 →
      ∃ t, exec .setkey s = .next t ∧ FailsWith .invalidKey { s with k := none } t) ∧
    (s.someMUnset → Raises (exec .setkey s) .emptyOrUnsetState s)

/-- R112: INVKEY replaces the key by its inverse modulo 26, each entry in 0..25, and keeps KV = 1; a determinant not
coprime to 26 raises NoInverse and keeps the key; KV = 0 raises EmptyOrUnsetState. -/
def Obligations.InvkeyInvertsTheKey : Prop :=
  EncodedAs .invkey 0x31000000 ∧ RejectsOthers 0x31 (· = 0x31000000) ∧
  ∀ s : State,
    (∀ q : Quad Entry, s.k = some q → Int.gcd (detOf q) 26 = 1 →
      ∃ t n q', exec .invkey s = .next t ∧ Replies s t 0 0 ∧ inverseKeyMod (matrixOf q) = some n ∧
        t.k = some q' ∧ (∀ j : Fin 4, (q'.get j).toInt = n.get j ∧ 0 ≤ n.get j ∧ n.get j ≤ 25) ∧
        t.m = s.m ∧ t.v = s.v ∧ t.r = s.r ∧ t.ef = s.ef) ∧
    (∀ q : Quad Entry, s.k = some q → Int.gcd (detOf q) 26 ≠ 1 → Raises (exec .invkey s) .noInverse s) ∧
    (s.k = none → Raises (exec .invkey s) .emptyOrUnsetState s)

/-- R113: MULV writes both rows of K times V to R[0..1], exactly and not reduced, and leaves R[2], R[3], K, V and the
rest alone; no key or an unset V[i] raises EmptyOrUnsetState. -/
def Obligations.MulvWritesTheProduct : Prop :=
  EncodedAs .mulv 0x32000000 ∧ RejectsOthers 0x32 (· = 0x32000000) ∧
  ∀ s : State,
    (∀ (q : Quad Entry) (p : Pair Sym), s.k = some q → s.vHolds p →
      ∃ t, exec .mulv s = .next t ∧ Replies s t 0 0 ∧
        intOf (t.r.get 0) = some ((q.get 0).toInt * (p.get 0).toNat + (q.get 1).toInt * (p.get 1).toNat) ∧
        intOf (t.r.get 1) = some ((q.get 2).toInt * (p.get 0).toNat + (q.get 3).toInt * (p.get 1).toNat) ∧
        t.r.get 2 = s.r.get 2 ∧ t.r.get 3 = s.r.get 3 ∧ t.m = s.m ∧ t.v = s.v ∧ t.k = s.k ∧ t.ef = s.ef) ∧
    (s.keyOrVectorUnset → Raises (exec .mulv s) .emptyOrUnsetState s)

/-- R114: MULVR writes both rows of K times V to R[0..1], each reduced into 0..25, and leaves R[2], R[3], K, V and the
rest alone; no key or an unset V[i] raises EmptyOrUnsetState. -/
def Obligations.MulvrWritesTheReducedProduct : Prop :=
  EncodedAs .mulvr 0x33000000 ∧ RejectsOthers 0x33 (· = 0x33000000) ∧
  ∀ s : State,
    (∀ (q : Quad Entry) (p : Pair Sym), s.k = some q → s.vHolds p →
      ∃ t, exec .mulvr s = .next t ∧ Replies s t 0 0 ∧
        intOf (t.r.get 0) = some (((q.get 0).toInt * (p.get 0).toNat + (q.get 1).toInt * (p.get 1).toNat) % 26) ∧
        intOf (t.r.get 1) = some (((q.get 2).toInt * (p.get 0).toNat + (q.get 3).toInt * (p.get 1).toNat) % 26) ∧
        t.r.get 2 = s.r.get 2 ∧ t.r.get 3 = s.r.get 3 ∧ t.m = s.m ∧ t.v = s.v ∧ t.k = s.k ∧ t.ef = s.ef) ∧
    (s.keyOrVectorUnset → Raises (exec .mulvr s) .emptyOrUnsetState s)

/-- R115: whenever MULV succeeds, MULVR leaves the same block and the same last response (0, 0) as MULV, RED 0, RED 1
in a row; when MULV fails, MULVR fails the same way. -/
def Obligations.MulvrIsMulvThenReduce : Prop :=
  ∀ s t : State, exec .mulv s = .next t →
    (Replies s t 0 0 →
      ∃ a b, exec .mulvr s = .next a ∧ runAll [.mulv, .red 0, .red 1] s = .next b ∧ a.sameBlock b ∧
        a.responses = s.responses ++ okays 1 ∧ b.responses = s.responses ++ okays 3) ∧
    (¬ Replies s t 0 0 → exec .mulvr s = .next t)

/-- R116: the round trip. With M = m valid and with an inverse, SETKEY, then for every pair (x, y) of symbols LDV and
MULVR give symbols (p, q), and INVKEY, LDV of (p, q) and MULVR give (x, y) back; no command fails. -/
def Obligations.EncryptThenDecryptGivesBackThePair : Prop :=
  ∀ (s : State) (m : Quad Entry) (x y : Symbol),
    s.mHolds m → isValidKey (matrixOf m) = true → Int.gcd (detOf m) 26 = 1 →
    ∃ (t u : State) (p q : Symbol),
      runAll [.setkey, .ldv 0 (symbolImm x), .ldv 1 (symbolImm y), .mulvr] s = .next t ∧
      intOf (t.r.get 0) = some (p.val : Int) ∧ intOf (t.r.get 1) = some (q.val : Int) ∧
      runAll [.invkey, .ldv 0 (symbolImm p), .ldv 1 (symbolImm q), .mulvr] t = .next u ∧
      intOf (u.r.get 0) = some (x.val : Int) ∧ intOf (u.r.get 1) = some (y.val : Int) ∧
      u.responses = s.responses ++ okays 8

/-! ### The whole machine -/

/-- The invariant (10_state.md R32, 30_encoding.md R60 and R61) is kept by every step from every state. -/
def Obligations.EveryStepKeepsTheInvariant : Prop := ∀ s t : State, s.Inv → step s = .next t → t.Inv

/-- The invariant holds right after reset. -/
def Obligations.ResetMeetsTheInvariant : Prop := State.reset.Inv

/-- R141, R146 and R147: the complete list of errors, their order and their whole effect. Every word, in every
state, gets one response: code 4 exactly for an illegal word; else code 3 exactly when a register the command reads is
unset; else code 1 exactly for SETKEY on a determinant of 0, 25 or 27; else code 2 exactly when the operand of MINV,
INVM or INVKEY is not coprime to 26; else code 0. A failure answers data 0, sets its own sticky flag and changes
nothing else, except that SETKEY failing with InvalidKey also makes KV 0. -/
def Obligations.EveryErrorHasItsOneCause : Prop :=
  ∀ (w : Word) (s : State), ∃ t code data, execute w s = .next t ∧ Replies s t code data ∧ code.toNat ≤ 4 ∧
    (code = 4 ↔ IllegalWord w) ∧
    (code = 3 ↔ ∃ i, decode w = .ok i ∧ i.Missing s) ∧
    (code = 1 ↔ ∃ i, decode w = .ok i ∧ ¬ i.Missing s ∧ i.KeyRejected s) ∧
    (code = 2 ↔ ∃ i, decode w = .ok i ∧ ¬ i.Missing s ∧ i.NotInvertible s) ∧
    (∀ e : ErrorKind, code = e.code → e ≠ .invalidKey → FailsWith e s t) ∧
    (code = ErrorKind.invalidKey.code → FailsWith .invalidKey { s with k := none } t)

/-- The numbers of the four errors (30_encoding.md R61) are 1, 2, 3 and 4. -/
def Obligations.ErrorCodesAreOneToFour : Prop :=
  ErrorKind.invalidKey.code = 1 ∧ ErrorKind.noInverse.code = 2 ∧ ErrorKind.emptyOrUnsetState.code = 3 ∧
  ErrorKind.illegalCommand.code = 4

/-- The writing half of R35: a register the matrix does not mark `w` for a command keeps value and tag, whether or not
the command succeeds; EF bits are only ever set, but for CLRE and SRST; the one exception is the KV that a rejected
SETKEY clears, which the matrix marks too. -/
def Obligations.CommandsWriteOnlyWhatTheMatrixMarks : Prop :=
  ∀ (i : Instr) (s t : State), exec i s = .next t →
    (∀ j : Fin 4, ¬ i.writesM j → t.m.get j = s.m.get j) ∧
    (∀ j : Fin 2, ¬ i.writesV j → t.v.get j = s.v.get j) ∧
    (¬ i.writesK → t.k = s.k) ∧
    (∀ j : Fin 4, ¬ i.writesR j → t.r.get j = s.r.get j) ∧
    (¬ i.clearsEF → ∀ e, s.ef.get e = true → t.ef.get e = true)

/-- The reading half of R35: the response of a command, and what it writes when it succeeds, depend on nothing the
matrix does not mark as read. -/
def Obligations.CommandsReadOnlyWhatTheMatrixMarks : Prop :=
  ∀ (i : Instr) (s₁ s₂ : State), i.ReadsAgree s₁ s₂ →
    ∃ t₁ t₂ code data, exec i s₁ = .next t₁ ∧ exec i s₂ = .next t₂ ∧
      Replies s₁ t₁ code data ∧ Replies s₂ t₂ code data ∧
      (code = 0 →
        (∀ j : Fin 4, i.writesM j → t₁.m.get j = t₂.m.get j) ∧ (∀ j : Fin 2, i.writesV j → t₁.v.get j = t₂.v.get j) ∧
        (i.writesK → t₁.k = t₂.k) ∧ (∀ j : Fin 4, i.writesR j → t₁.r.get j = t₂.r.get j))

/-- R23's lifecycle of KV: SETKEY is the only command that can set KV to 1, and only SETKEY and SRST can set it to 0,
SETKEY only by failing with InvalidKey. -/
def Obligations.OnlySetkeyMakesAKey : Prop :=
  ∀ (i : Instr) (s t : State), exec i s = .next t →
    (s.k = none → t.k ≠ none → i = .setkey ∧ ∃ q, s.mHolds q ∧ t.k = some q ∧ isValidKey (matrixOf q) = true) ∧
    (s.k ≠ none → t.k = none → i = .srst ∨ (i = .setkey ∧ Replies s t 1 0))

/-- R26 (c): EF[c] is set by a failure with code c, is kept by every other command but CLRE and SRST, and is set in
no other way. -/
def Obligations.ErrorFlagsAreSticky : Prop :=
  ∀ (w : Word) (s t : State) (e : ErrorKind), execute w s = .next t →
    (decode w = .ok .clre ∨ decode w = .ok .srst → t.ef.get e = false) ∧
    (decode w ≠ .ok .clre → decode w ≠ .ok .srst → (t.ef.get e = true ↔ s.ef.get e = true ∨ Replies s t e.code 0))

/-- R44: the read commands RDR, RDK, RDS and KCHK have no side effect on success: issued twice in a row they answer
the same twice and leave the block as it was. -/
def Obligations.ReadCommandsRepeat : Prop :=
  ∀ (s t : State) (data : Word) (i : Instr) (j : Fin 4), i ∈ [Instr.rdr j, .rdk j, .rds, .kchk] →
    exec i s = .next t → Replies s t 0 data →
    t.sameBlock s ∧ ∃ u, exec i t = .next u ∧ Replies t u 0 data ∧ u.sameBlock s

/-- Every word gets its response, whatever the state and whatever the word (60_exceptions.md section 5). The words the
host has issued are executed one a step; no step waits, faults or is refused; after as many steps there is one
response more for each word, and the earlier responses stand. That the words stand on a port which the steps drain,
and that a command takes one step, are the model's choices (log entries 1 and 7). -/
def Obligations.EveryWordGetsOneResponse : Prop :=
  ∀ (ws : List Word) (s : State), s.inputs = ws.map .command →
    ∃ t answers, core.run ws.length s = .next t ∧ t.inputs = [] ∧
      t.responses = s.responses ++ answers ∧ answers.length = ws.length

/-- R9 and R30: two equal blocks answer every sequence of inputs alike and stay equal, whatever responses were given
before. -/
def Obligations.EqualBlocksAnswerAlike : Prop :=
  ∀ (n : Nat) (s₁ s₂ : State), s₁.sameBlock s₂ → s₁.inputs = s₂.inputs →
    ∃ t₁ t₂ answers, core.run n s₁ = .next t₁ ∧ core.run n s₂ = .next t₂ ∧ t₁.sameBlock t₂ ∧
      t₁.inputs = t₂.inputs ∧ t₁.responses = s₁.responses ++ answers ∧ t₂.responses = s₂.responses ++ answers

/-! ### The host's sequences (44_host_sequences.md) -/

/-- R120: SETKEY4 installs (a, b, c, d) with code 0 when it is a valid key, and stops at its SETKEY, after four LDM
that succeed, with code 1 and no key otherwise. -/
def Obligations.SetkeyFourInstallsAKey : Prop :=
  ∀ (s : State) (a b c d : BitVec 16),
    ((issue (setkey4 a b c d) s).error = none ∧ (issue (setkey4 a b c d) s).state.k = some ⟨a, b, c, d⟩ ∧
        isValidKey (matrixOf ⟨a, b, c, d⟩) = true) ∨
    ((issue (setkey4 a b c d) s).error = some 1 ∧ (issue (setkey4 a b c d) s).data = [0, 0, 0, 0] ∧
        (issue (setkey4 a b c d) s).state.k = none ∧
        isValidKey (matrixOf ⟨a, b, c, d⟩) = false)

/-- R121: ENCV reads out both reduced rows of K times (x, y); with no key it stops at MULVR with code 3, before any
RDR. -/
def Obligations.EncvTransformsOneVector : Prop :=
  ∀ (s : State) (x y : Symbol),
    (∀ q : Quad Entry, s.k = some q →
      ∃ p r : Word, (issue (encv x y) s).error = none ∧ (issue (encv x y) s).data = [0, 0, 0, p, r] ∧
        (p.toNat : Int) = ((q.get 0).toInt * x.val + (q.get 1).toInt * y.val) % 26 ∧
        (r.toNat : Int) = ((q.get 2).toInt * x.val + (q.get 3).toInt * y.val) % 26) ∧
    (s.k = none → (issue (encv x y) s).error = some 3 ∧ (issue (encv x y) s).data = [0, 0])

/-- R122: `encrypt()` over column vectors. With a key, every vector is transformed by the same key, in order, and the
key stays; with no vectors no command is issued; with no key and a vector to transform it fails with code 3. -/
def Obligations.EncryptTransformsTheVectorsInOrder : Prop :=
  ∀ (s : State) (ps : List (Pair Symbol)),
    (∀ q : Quad Entry, s.k = some q →
      (encryptVectors ps s).error = none ∧ (encryptVectors ps s).state.k = some q ∧
      List.Forall₂ (TransformedBy q) ps (encryptVectors ps s).output) ∧
    (ps = [] → encryptVectors ps s = ⟨s, [], none⟩) ∧
    (ps ≠ [] → s.k = none → (encryptVectors ps s).error = some 3 ∧ (encryptVectors ps s).output = [])

/-- R123: `decrypt()` over column vectors. A key with an inverse is inverted once, whatever the number of vectors, and
then used as for `encrypt()`; with code 2 or 3 from INVKEY no vector is transformed and the key is as before. -/
def Obligations.DecryptInvertsTheKeyOnce : Prop :=
  ∀ (s : State) (ps : List (Pair Symbol)),
    (∀ q : Quad Entry, s.k = some q → Int.gcd (detOf q) 26 = 1 →
      ∃ n q', inverseKeyMod (matrixOf q) = some n ∧ matrixOf q' = n ∧
        (decryptVectors ps s).error = none ∧ (decryptVectors ps s).state.k = some q' ∧
        List.Forall₂ (TransformedBy q') ps (decryptVectors ps s).output) ∧
    (∀ q : Quad Entry, s.k = some q → Int.gcd (detOf q) 26 ≠ 1 →
      (decryptVectors ps s).error = some 2 ∧ (decryptVectors ps s).output = [] ∧
      (decryptVectors ps s).state.k = s.k) ∧
    (s.k = none →
      (decryptVectors ps s).error = some 3 ∧ (decryptVectors ps s).output = [] ∧ (decryptVectors ps s).state.k = none)

/-- The calls of R125 and R126: REDUCE reads out reduce(x); MODINV reads out the inverse or stops at MINV with code 2, and INVKEYMOD
reads out the inverse matrix row-major or stops at INVM with code 2; neither touches K. -/
def Obligations.ArithmeticCallsReadOutTheirFunctions : Prop :=
  ∀ (s : State) (a b c d : BitVec 16),
    ((issue (reduceCall a) s).error = none ∧ (issue (reduceCall a) s).data = [0, 0, tc32 (reduce a.toInt)]) ∧
    (match modInverse a.toInt with
      | some i => (issue (modinvCall a) s).error = none ∧ (issue (modinvCall a) s).data = [0, 0, tc32 i]
      | none => (issue (modinvCall a) s).error = some 2 ∧ (issue (modinvCall a) s).data = [0]) ∧
    (match inverseKeyMod ⟨a.toInt, b.toInt, c.toInt, d.toInt⟩ with
      | some n => (issue (invkeymodCall a b c d) s).error = none ∧
          (issue (invkeymodCall a b c d) s).data = [0, 0, 0, 0, 0, tc32 n.e0, tc32 n.e1, tc32 n.e2, tc32 n.e3]
      | none => (issue (invkeymodCall a b c d) s).error = some 2 ∧
          (issue (invkeymodCall a b c d) s).data = [0, 0, 0, 0]) ∧
    (issue (modinvCall a) s).state.k = s.k ∧ (issue (invkeymodCall a b c d) s).state.k = s.k

/-- The source's round trip over a whole text (95_test_vectors.md S1; 90_conflicts.md C4): for every alphabet table,
every key with an inverse and every text with a letter in it, encrypting the text and then decrypting the result
gives the normalised, padded text back. Which characters count as letters, and that a text without one has no
encoding, are the model's choices (log entry 9). -/
def Obligations.TextRoundTrip : Prop :=
  ∀ (a : Alphabet) (s : State) (q : Quad Entry) (msg : List Char),
    s.k = some q → Int.gcd (detOf q) 26 = 1 → normalizeText msg ≠ [] →
    ∃ (x y : TextResult) (cipher : List Char),
      encryptText a msg s = some x ∧ x.output = .ok cipher ∧ decryptText a cipher x.state = some y ∧
      y.output = .ok (pad (normalizeText msg))

/-- R64: the assembler cannot produce an illegal word. -/
def Obligations.AssemblerMakesNoIllegalWord : Prop :=
  ∀ (line : List Char) (ws : List Word), assembleWords line = some ws → ∀ w ∈ ws, ¬ IllegalWord w
end

