-- ==== Sys2Proof/Laws/Decode.lean ====
section
/-! SUPPORT. The fields of an assembled word, and the opcode map read back. -/

namespace Sys2Proof

/-- Joining two fields adds their numbers, the upper one shifted up. -/
theorem toNat_append_eq {n m : Nat} (x : BitVec n) (y : BitVec m) :
    (x ++ y).toNat = x.toNat * 2 ^ m + y.toNat := by
  rw [BitVec.toNat_append, ← Nat.shiftLeft_add_eq_or_of_lt y.isLt, Nat.shiftLeft_eq]

/-- The word of three fields, as a number (30_encoding.md R51). -/
theorem assembleFields_toNat (op : BitVec 8) (idx : Fin 4) (imm : BitVec 16) :
    (assembleFields op idx imm).toNat = op.toNat * 2 ^ 24 + idx.val * 2 ^ 20 + imm.toNat := by
  have h : (assembleFields op idx imm).toNat =
      (op ++ 0#2 ++ BitVec.ofFin (w := 2) idx ++ 0#4 ++ imm : BitVec (8 + 2 + 2 + 4 + 16)).toNat := rfl
  rw [h]
  simp only [toNat_append_eq, BitVec.toNat_ofNat, BitVec.toNat_ofFin]
  omega

/-- A field of a word, as a number. -/
theorem extractLsb'_toNat (w : Word) (at' len : Nat) :
    (w.extractLsb' at' len).toNat = w.toNat / 2 ^ at' % 2 ^ len := by
  rw [BitVec.extractLsb'_toNat, Nat.shiftRight_eq_div_pow]

theorem fieldOp_toNat (w : Word) : (fieldOp w).toNat = w.toNat / 2 ^ 24 := by
  rw [fieldOp, extractLsb'_toNat]
  have := w.isLt
  omega

theorem fieldRsv1_toNat (w : Word) : (fieldRsv1 w).toNat = w.toNat / 2 ^ 22 % 4 := extractLsb'_toNat w 22 2

theorem fieldIdx_val (w : Word) : (fieldIdx w).val = w.toNat / 2 ^ 20 % 4 := extractLsb'_toNat w 20 2

theorem fieldRsv0_toNat (w : Word) : (fieldRsv0 w).toNat = w.toNat / 2 ^ 16 % 16 := extractLsb'_toNat w 16 4

theorem fieldImm_toNat (w : Word) : (fieldImm w).toNat = w.toNat % 2 ^ 16 := by
  rw [fieldImm, extractLsb'_toNat]
  omega

/-! ### The fields of an assembled word -/

section
variable (op : BitVec 8) (idx : Fin 4) (imm : BitVec 16)

theorem fieldOp_assembleFields : fieldOp (assembleFields op idx imm) = op := by
  apply BitVec.eq_of_toNat_eq
  rw [fieldOp_toNat, assembleFields_toNat]
  omega

theorem fieldRsv1_assembleFields : fieldRsv1 (assembleFields op idx imm) = 0 := by
  apply BitVec.eq_of_toNat_eq
  rw [fieldRsv1_toNat, assembleFields_toNat]
  change _ = 0
  omega

theorem fieldIdx_assembleFields : fieldIdx (assembleFields op idx imm) = idx := by
  apply Fin.ext
  rw [fieldIdx_val, assembleFields_toNat]
  omega

theorem fieldRsv0_assembleFields : fieldRsv0 (assembleFields op idx imm) = 0 := by
  apply BitVec.eq_of_toNat_eq
  rw [fieldRsv0_toNat, assembleFields_toNat]
  change _ = 0
  omega

theorem fieldImm_assembleFields : fieldImm (assembleFields op idx imm) = imm := by
  apply BitVec.eq_of_toNat_eq
  rw [fieldImm_toNat, assembleFields_toNat]
  omega

end

/-! ### The opcode map -/

theorem Op.opOfCode_code (o : Op) : opOfCode o.code = some o := by
  cases o <;> rfl

theorem Op.withOperands_of_instr (i : Instr) : i.op.withOperands i.idx i.imm = i := by
  cases i <;> rfl

/-- An opcode byte in the map is the code of the command it selects. -/
theorem code_of_opOfCode {c : BitVec 8} {o : Op} (h : opOfCode c = some o) : o.code = c := by
  revert c o; decide

end Sys2Proof
end

