-- ==== Sys2Proof/Laws/State.lean ====
section
/-! SUPPORT. What each update of the state leaves in each field, one lemma per field per update, all true by
unfolding once here so that no later proof unfolds a record update. -/

namespace Sys2Proof.Machine

variable (s : State)

@[simp] theorem State.writeM_m (i : Fin 4) (x : Entry) : (State.writeM i x s).m = s.m.set i (some x) := rfl
@[simp] theorem State.writeM_v (i : Fin 4) (x : Entry) : (State.writeM i x s).v = s.v := rfl
@[simp] theorem State.writeM_k (i : Fin 4) (x : Entry) : (State.writeM i x s).k = s.k := rfl
@[simp] theorem State.writeM_r (i : Fin 4) (x : Entry) : (State.writeM i x s).r = s.r := rfl
@[simp] theorem State.writeM_ef (i : Fin 4) (x : Entry) : (State.writeM i x s).ef = s.ef := rfl
@[simp] theorem State.writeM_inputs (i : Fin 4) (x : Entry) : (State.writeM i x s).inputs = s.inputs := rfl
@[simp] theorem State.writeM_responses (i : Fin 4) (x : Entry) : (State.writeM i x s).responses = s.responses := rfl

@[simp] theorem State.writeV_m (i : Fin 2) (x : Sym) : (State.writeV i x s).m = s.m := rfl
@[simp] theorem State.writeV_v (i : Fin 2) (x : Sym) : (State.writeV i x s).v = s.v.set i (some x) := rfl
@[simp] theorem State.writeV_k (i : Fin 2) (x : Sym) : (State.writeV i x s).k = s.k := rfl
@[simp] theorem State.writeV_r (i : Fin 2) (x : Sym) : (State.writeV i x s).r = s.r := rfl
@[simp] theorem State.writeV_ef (i : Fin 2) (x : Sym) : (State.writeV i x s).ef = s.ef := rfl
@[simp] theorem State.writeV_inputs (i : Fin 2) (x : Sym) : (State.writeV i x s).inputs = s.inputs := rfl
@[simp] theorem State.writeV_responses (i : Fin 2) (x : Sym) : (State.writeV i x s).responses = s.responses := rfl

@[simp] theorem State.writeR_m (i : Fin 4) (x : Result) : (State.writeR i x s).m = s.m := rfl
@[simp] theorem State.writeR_v (i : Fin 4) (x : Result) : (State.writeR i x s).v = s.v := rfl
@[simp] theorem State.writeR_k (i : Fin 4) (x : Result) : (State.writeR i x s).k = s.k := rfl
@[simp] theorem State.writeR_r (i : Fin 4) (x : Result) : (State.writeR i x s).r = s.r.set i (some x) := rfl
@[simp] theorem State.writeR_ef (i : Fin 4) (x : Result) : (State.writeR i x s).ef = s.ef := rfl
@[simp] theorem State.writeR_inputs (i : Fin 4) (x : Result) : (State.writeR i x s).inputs = s.inputs := rfl
@[simp] theorem State.writeR_responses (i : Fin 4) (x : Result) : (State.writeR i x s).responses = s.responses := rfl

@[simp] theorem State.writeRAll_m (q : Quad Result) : (State.writeRAll q s).m = s.m := rfl
@[simp] theorem State.writeRAll_v (q : Quad Result) : (State.writeRAll q s).v = s.v := rfl
@[simp] theorem State.writeRAll_k (q : Quad Result) : (State.writeRAll q s).k = s.k := rfl
@[simp] theorem State.writeRAll_r (q : Quad Result) : (State.writeRAll q s).r = q.map some := rfl
@[simp] theorem State.writeRAll_ef (q : Quad Result) : (State.writeRAll q s).ef = s.ef := rfl
@[simp] theorem State.writeRAll_inputs (q : Quad Result) : (State.writeRAll q s).inputs = s.inputs := rfl
@[simp] theorem State.writeRAll_responses (q : Quad Result) : (State.writeRAll q s).responses = s.responses := rfl

@[simp] theorem State.writeRLow_m (p : Pair Result) : (State.writeRLow p s).m = s.m := rfl
@[simp] theorem State.writeRLow_v (p : Pair Result) : (State.writeRLow p s).v = s.v := rfl
@[simp] theorem State.writeRLow_k (p : Pair Result) : (State.writeRLow p s).k = s.k := rfl
@[simp] theorem State.writeRLow_r (p : Pair Result) : (State.writeRLow p s).r = ⟨some p.e0, some p.e1, s.r.e2, s.r.e3⟩ := rfl
@[simp] theorem State.writeRLow_ef (p : Pair Result) : (State.writeRLow p s).ef = s.ef := rfl
@[simp] theorem State.writeRLow_inputs (p : Pair Result) : (State.writeRLow p s).inputs = s.inputs := rfl
@[simp] theorem State.writeRLow_responses (p : Pair Result) : (State.writeRLow p s).responses = s.responses := rfl

@[simp] theorem State.writeK_m (q : Quad Entry) : (State.writeK q s).m = s.m := rfl
@[simp] theorem State.writeK_v (q : Quad Entry) : (State.writeK q s).v = s.v := rfl
@[simp] theorem State.writeK_k (q : Quad Entry) : (State.writeK q s).k = some q := rfl
@[simp] theorem State.writeK_r (q : Quad Entry) : (State.writeK q s).r = s.r := rfl
@[simp] theorem State.writeK_ef (q : Quad Entry) : (State.writeK q s).ef = s.ef := rfl
@[simp] theorem State.writeK_inputs (q : Quad Entry) : (State.writeK q s).inputs = s.inputs := rfl
@[simp] theorem State.writeK_responses (q : Quad Entry) : (State.writeK q s).responses = s.responses := rfl

@[simp] theorem State.dropK_m : (State.dropK s).m = s.m := rfl
@[simp] theorem State.dropK_v : (State.dropK s).v = s.v := rfl
@[simp] theorem State.dropK_k : (State.dropK s).k = none := rfl
@[simp] theorem State.dropK_r : (State.dropK s).r = s.r := rfl
@[simp] theorem State.dropK_ef : (State.dropK s).ef = s.ef := rfl
@[simp] theorem State.dropK_inputs : (State.dropK s).inputs = s.inputs := rfl
@[simp] theorem State.dropK_responses : (State.dropK s).responses = s.responses := rfl

@[simp] theorem State.give_m (c : Code) (d : Word) : (State.give c d s).m = s.m := rfl
@[simp] theorem State.give_v (c : Code) (d : Word) : (State.give c d s).v = s.v := rfl
@[simp] theorem State.give_k (c : Code) (d : Word) : (State.give c d s).k = s.k := rfl
@[simp] theorem State.give_r (c : Code) (d : Word) : (State.give c d s).r = s.r := rfl
@[simp] theorem State.give_ef (c : Code) (d : Word) : (State.give c d s).ef = s.ef := rfl
@[simp] theorem State.give_inputs (c : Code) (d : Word) : (State.give c d s).inputs = s.inputs := rfl
@[simp] theorem State.give_responses (c : Code) (d : Word) : (State.give c d s).responses = s.responses ++ [⟨c, d⟩] := rfl

@[simp] theorem State.clearErrors_m : (State.clearErrors s).m = s.m := rfl
@[simp] theorem State.clearErrors_v : (State.clearErrors s).v = s.v := rfl
@[simp] theorem State.clearErrors_k : (State.clearErrors s).k = s.k := rfl
@[simp] theorem State.clearErrors_r : (State.clearErrors s).r = s.r := rfl
@[simp] theorem State.clearErrors_ef : (State.clearErrors s).ef = ⟨false, false, false, false⟩ := rfl
@[simp] theorem State.clearErrors_inputs : (State.clearErrors s).inputs = s.inputs := rfl
@[simp] theorem State.clearErrors_responses : (State.clearErrors s).responses = s.responses := rfl

@[simp] theorem State.resetBlock_m : (State.resetBlock s).m = State.reset.m := rfl
@[simp] theorem State.resetBlock_v : (State.resetBlock s).v = State.reset.v := rfl
@[simp] theorem State.resetBlock_k : (State.resetBlock s).k = none := rfl
@[simp] theorem State.resetBlock_r : (State.resetBlock s).r = State.reset.r := rfl
@[simp] theorem State.resetBlock_ef : (State.resetBlock s).ef = State.reset.ef := rfl
@[simp] theorem State.resetBlock_inputs : (State.resetBlock s).inputs = s.inputs := rfl
@[simp] theorem State.resetBlock_responses : (State.resetBlock s).responses = s.responses := rfl

@[simp] theorem State.offerNow_m (w : Word) : (State.offerNow w s).m = s.m := rfl
@[simp] theorem State.offerNow_v (w : Word) : (State.offerNow w s).v = s.v := rfl
@[simp] theorem State.offerNow_k (w : Word) : (State.offerNow w s).k = s.k := rfl
@[simp] theorem State.offerNow_r (w : Word) : (State.offerNow w s).r = s.r := rfl
@[simp] theorem State.offerNow_ef (w : Word) : (State.offerNow w s).ef = s.ef := rfl
@[simp] theorem State.offerNow_inputs (w : Word) : (State.offerNow w s).inputs = .command w :: s.inputs := rfl
@[simp] theorem State.offerNow_responses (w : Word) : (State.offerNow w s).responses = s.responses := rfl

end Sys2Proof.Machine
end

