-- ==== Sys2Proof/Laws/Tuples.lean ====
section
/-! SUPPORT. Reading after writing in the tuples the register files are made of. -/

namespace Sys2Proof

variable {α β : Type}

/-- A statement about every index of a register file of four is one about each of its four registers. -/
theorem forall_index (P : Fin 4 → Prop) : (∀ i, P i) ↔ P 0 ∧ P 1 ∧ P 2 ∧ P 3 :=
  ⟨fun h => ⟨h 0, h 1, h 2, h 3⟩, fun ⟨h0, h1, h2, h3⟩ i => by
    match i with
    | 0 => exact h0
    | 1 => exact h1
    | 2 => exact h2
    | 3 => exact h3⟩

theorem Quad.get_set_self (q : Quad α) (i : Fin 4) (x : α) : (q.set i x).get i = x := by
  match i with
  | 0 | 1 | 2 | 3 => rfl

theorem Quad.get_set_of_ne (q : Quad α) {i j : Fin 4} (x : α) (h : j ≠ i) : (q.set i x).get j = q.get j := by
  match i, j with
  | 0, 0 | 1, 1 | 2, 2 | 3, 3 => exact absurd rfl h
  | 0, 1 | 0, 2 | 0, 3 | 1, 0 | 1, 2 | 1, 3 | 2, 0 | 2, 1 | 2, 3 | 3, 0 | 3, 1 | 3, 2 => rfl

theorem Quad.get_map (f : α → β) (q : Quad α) (i : Fin 4) : (q.map f).get i = f (q.get i) := by
  match i with
  | 0 | 1 | 2 | 3 => rfl

/-- All four values are present exactly when each register holds the tuple's entry. -/
theorem Quad.allSet_eq_some (q : Quad (Option α)) (a : Quad α) :
    q.allSet = some a ↔ ∀ i, q.get i = some (a.get i) := by
  rw [forall_index]
  obtain ⟨q0, q1, q2, q3⟩ := q
  obtain ⟨a0, a1, a2, a3⟩ := a
  cases q0 <;> cases q1 <;> cases q2 <;> cases q3 <;> simp [Quad.allSet, Quad.get]

/-- Some value is missing exactly when some register is unset. -/
theorem Quad.allSet_eq_none (q : Quad (Option α)) : q.allSet = none ↔ ∃ i, q.get i = none := by
  obtain ⟨q0, q1, q2, q3⟩ := q
  rw [← not_iff_not, not_exists, forall_index]
  cases q0 <;> cases q1 <;> cases q2 <;> cases q3 <;> simp [Quad.allSet, Quad.get]

theorem Pair.get_set_self (p : Pair α) (i : Fin 2) (x : α) : (p.set i x).get i = x := by
  match i with
  | 0 | 1 => rfl

theorem Pair.get_set_of_ne (p : Pair α) {i j : Fin 2} (x : α) (h : j ≠ i) : (p.set i x).get j = p.get j := by
  match i, j with
  | 0, 0 | 1, 1 => exact absurd rfl h
  | 0, 1 | 1, 0 => rfl

theorem Pair.get_map (f : α → β) (p : Pair α) (i : Fin 2) : (p.map f).get i = f (p.get i) := by
  match i with
  | 0 | 1 => rfl

theorem Pair.allSet_eq_some (p : Pair (Option α)) (a : Pair α) :
    p.allSet = some a ↔ ∀ i, p.get i = some (a.get i) := by
  obtain ⟨p0, p1⟩ := p
  obtain ⟨a0, a1⟩ := a
  rw [Fin.forall_fin_two]
  cases p0 <;> cases p1 <;> simp [Pair.allSet, Pair.get]

theorem Pair.allSet_eq_none (p : Pair (Option α)) : p.allSet = none ↔ ∃ i, p.get i = none := by
  obtain ⟨p0, p1⟩ := p
  rw [Fin.exists_fin_two]
  cases p0 <;> cases p1 <;> simp [Pair.allSet, Pair.get]

end Sys2Proof
end

