-- ==== Sys2Proof/Laws/Ops.lean ====
section
/-! SUPPORT. One lemma for each shared operation that says all it can do, cited instead of unfolding it. -/

namespace Sys2Proof.Machine

/-- `respond` always goes on, with one response of code 0. -/
theorem respond_eq_next {d : Word} {s t : State} (h : respond d s = .next t) : t = s.give 0 d := by
  cases h; rfl

/-- `raiseError` always goes on: the error's flag is set and its code answered, and that is all. -/
theorem raiseError_eq_next {e : ErrorKind} {s t : State} (h : raiseError e s = .next t) :
    t.m = s.m ∧ t.v = s.v ∧ t.k = s.k ∧ t.r = s.r ∧ t.inputs = s.inputs ∧ t.ef = s.ef.raise e ∧
      t.responses = s.responses ++ [⟨e.code, 0⟩] := by
  cases h; exact ⟨rfl, rfl, rfl, rfl, rfl, rfl, rfl⟩

/-- Raising a flag sets that flag and no other. -/
theorem ErrorFlags.get_raise (f : ErrorFlags) (e e' : ErrorKind) :
    (f.raise e).get e' = (decide (e' = e) || f.get e') := by
  cases e <;> cases e' <;> simp [ErrorFlags.raise, ErrorFlags.get]

/-- Two sets of flags that agree on every error are equal. -/
theorem ErrorFlags.ext_get {f g : ErrorFlags} (h : ∀ e, f.get e = g.get e) : f = g :=
  ErrorFlags.ext (h .invalidKey) (h .noInverse) (h .emptyOrUnsetState) (h .illegalCommand)

/-- Different errors have different codes, none of them 0. -/
theorem ErrorKind.code_inj {e f : ErrorKind} : e.code = f.code ↔ e = f := by
  cases e <;> cases f <;> decide

theorem ErrorKind.code_ne_zero (e : ErrorKind) : e.code ≠ 0 := by
  cases e <;> decide

/-- The port gives the oldest input and keeps the others in order. -/
theorem State.takeInput_eq (s : State) :
    (s.inputs = [] ∧ s.takeInput = none) ∨
      ∃ x rest, s.inputs = x :: rest ∧ s.takeInput = some (x, { s with inputs := rest }) := by
  cases h : s.inputs with
  | nil => exact .inl ⟨rfl, by simp [State.takeInput, h]⟩
  | cons x rest => exact .inr ⟨x, rest, rfl, by simp [State.takeInput, h]⟩

/-- A word offered ahead of everything else is executed on the state it was offered to. -/
theorem step_offerNow (w : Word) (s : State) : step (s.offerNow w) = execute w s := rfl

end Sys2Proof.Machine
end

