-- ==== Sys2Proof/Laws/PerInstr.lean ====
section
/-! SUPPORT. Statements about every instruction as syntax, one lemma per constructor. `Fields`: the encoder puts each
field where 30_encoding.md R51 puts it, and the reserved bits are 0. -/

namespace Sys2Proof.Laws.Fields

/-- The fields of the encoding of `i` are its opcode, its index, its immediate and zeros. -/
def Statement (i : Instr) : Prop :=
  fieldOp (encode i) = i.op.code ∧ fieldRsv1 (encode i) = 0 ∧ fieldIdx (encode i) = i.idx ∧
    fieldRsv0 (encode i) = 0 ∧ fieldImm (encode i) = i.imm

theorem of_assembleFields (i : Instr) : Statement i :=
  ⟨fieldOp_assembleFields _ _ _, fieldRsv1_assembleFields _ _ _, fieldIdx_assembleFields _ _ _,
    fieldRsv0_assembleFields _ _ _, fieldImm_assembleFields _ _ _⟩

theorem nop : Statement .nop := of_assembleFields _
theorem ldm (idx : Fin 4) (imm : BitVec 16) : Statement (.ldm idx imm) := of_assembleFields _
theorem ldv (idx : Fin 4) (imm : BitVec 16) : Statement (.ldv idx imm) := of_assembleFields _
theorem ldr (idx : Fin 4) (imm : BitVec 16) : Statement (.ldr idx imm) := of_assembleFields _
theorem rdr (idx : Fin 4) : Statement (.rdr idx) := of_assembleFields _
theorem rdk (idx : Fin 4) : Statement (.rdk idx) := of_assembleFields _
theorem rds : Statement .rds := of_assembleFields _
theorem clre : Statement .clre := of_assembleFields _
theorem srst : Statement .srst := of_assembleFields _
theorem red (idx : Fin 4) : Statement (.red idx) := of_assembleFields _
theorem minv (idx : Fin 4) : Statement (.minv idx) := of_assembleFields _
theorem det : Statement .det := of_assembleFields _
theorem adj : Statement .adj := of_assembleFields _
theorem kchk : Statement .kchk := of_assembleFields _
theorem invm : Statement .invm := of_assembleFields _
theorem setkey : Statement .setkey := of_assembleFields _
theorem invkey : Statement .invkey := of_assembleFields _
theorem mulv : Statement .mulv := of_assembleFields _
theorem mulvr : Statement .mulvr := of_assembleFields _

end Sys2Proof.Laws.Fields
end

