-- ==== Sys2Proof/Tests/Slice0.lean ====
section
/-! SUPPORT. Tests of the model on the spec's own vectors (95_test_vectors.md and the worked examples of the rules),
and a witness for the hypotheses of every statement that has any. Every expected value is copied from the spec. -/

namespace Sys2Proof.Tests

open Sys2Proof.Machine

/-! ### Small states -/

/-- `s` with M = (a, b, c, d). -/
def withM (a b c d : Int) (s : State) : State :=
  { s with m := ⟨some (toEntry a), some (toEntry b), some (toEntry c), some (toEntry d)⟩ }

/-- `s` with K = (a, b, c, d). -/
def withK (a b c d : Int) (s : State) : State := { s with k := some ⟨toEntry a, toEntry b, toEntry c, toEntry d⟩ }

/-- `s` with V = (x, y). -/
def withV (x y : Nat) (s : State) : State := { s with v := ⟨some (BitVec.ofNat 5 x), some (BitVec.ofNat 5 y)⟩ }

/-- `s` with R[i] = x. -/
def withR (i : Fin 4) (x : Int) (s : State) : State := { s with r := s.r.set i (some (toResult x)) }

/-- `s` with the error flags EF[1..4]. -/
def withEF (e1 e2 e3 e4 : Bool) (s : State) : State := { s with ef := ⟨e1, e2, e3, e4⟩ }

/-- R as integers, an unset register as nothing. -/
def rInts (s : State) : List (Option Int) := [s.r.e0, s.r.e1, s.r.e2, s.r.e3].map intOf

/-- K as integers, nothing when there is no key. -/
def kInts (s : State) : Option (List Int) := s.k.map fun q => [q.e0, q.e1, q.e2, q.e3].map BitVec.toInt

/-- The word's execution goes on, answers (code, data), and its state passes the check. -/
def answers (w : Word) (s : State) (code : Code) (data : Word) (check : State → Bool := fun _ => true) : Bool :=
  match step (s.withFetchWord 32 w.toNat) with
  | .next t => t.responses.getLast? == some ⟨code, data⟩ && check t
  | .fault _ => false
  | .refused _ => false

/-! ### WellFormed refuses ill-formed commands (30_encoding.md R57 item 5) -/

theorem test_wellFormed_refuses_vector_index : (Instr.ldv 2 0).wellFormed = false := by decide
theorem test_wellFormed_refuses_symbol : (Instr.ldv 0 26).wellFormed = false := by decide
theorem test_wellFormed_takes_boundary : (Instr.ldv 1 25).wellFormed = true := by decide

/-! ### Decoding: every constructor, by the words of R67 to R114 and Part B -/

theorem test_decode_control :
    decode 0x00000000 = .ok .nop ∧ decode 0x0110FFFD = .ok (.ldm 1 0xFFFD) ∧ decode 0x02000019 = .ok (.ldv 0 25) ∧
    decode 0x0320FFFF = .ok (.ldr 2 0xFFFF) ∧ decode 0x08200000 = .ok (.rdr 2) ∧
    decode 0x09100000 = .ok (.rdk 1) ∧ decode 0x0A000000 = .ok .rds ∧ decode 0x0E000000 = .ok .clre ∧
    decode 0x0F000000 = .ok .srst := by decide

theorem test_decode_arithmetic : decode 0x10200000 = .ok (.red 2) ∧ decode 0x11300000 = .ok (.minv 3) := by decide

theorem test_decode_matrix :
    decode 0x20000000 = .ok .det ∧ decode 0x21000000 = .ok .adj ∧ decode 0x22000000 = .ok .kchk ∧
    decode 0x23000000 = .ok .invm := by decide

theorem test_decode_key :
    decode 0x30000000 = .ok .setkey ∧ decode 0x31000000 = .ok .invkey ∧ decode 0x32000000 = .ok .mulv ∧
    decode 0x33000000 = .ok .mulvr := by decide

/-- The fields of R51 bit by bit: `op`, `rsv1`, `idx`, `rsv0`, `imm`, one command of each family. -/
theorem test_decode_bits :
    decode (0b00000001#8 ++ 0b00#2 ++ 0b01#2 ++ 0b0000#4 ++ 0b1111111111111101#16) = .ok (.ldm 1 0xFFFD) ∧
    decode (0b00010001#8 ++ 0b00#2 ++ 0b11#2 ++ 0b0000#4 ++ 0b0000000000000000#16) = .ok (.minv 3) ∧
    decode (0b00100011#8 ++ 0b00#2 ++ 0b00#2 ++ 0b0000#4 ++ 0b0000000000000000#16) = .ok .invm ∧
    decode (0b00110011#8 ++ 0b00#2 ++ 0b00#2 ++ 0b0000#4 ++ 0b0000000000000000#16) = .ok .mulvr := by decide

/-- T8, by the item of R57 each word falls under. -/
theorem test_decode_illegal :
    decode 0x04000000 = .error (.undefinedOpcode 0x04) ∧ decode 0x34000000 = .error (.undefinedOpcode 0x34) ∧
    decode 0x12000000 = .error (.undefinedOpcode 0x12) ∧ decode 0x00040000 = .error .reservedBits ∧
    decode 0x01400000 = .error .reservedBits ∧ decode 0x0F800000 = .error .reservedBits ∧
    decode 0x30100000 = .error (.unusedField .setkey) ∧ decode 0x08000001 = .error (.unusedField .rdr) ∧
    decode 0x02200000 = .error (.vectorIndex 2) ∧ decode 0x0200001A = .error (.notASymbol 26) := by decide

theorem test_encode : encode (.ldm 3 0xFFF9) = 0x0130FFF9 ∧ encode (.rdk 3) = 0x09300000 ∧ encode .invkey = 0x31000000 := by
  decide

theorem test_tableWord :
    decodeTableWord 32 0x0110FFFD = some (.ldm 1 0xFFFD) ∧ decodeTableWord 32 0x04000000 = none ∧
    decodeTableWord 40 0 = none := by decide

/-! ### One step of each command (Part B) -/

theorem test_nop_keeps_flag : answers 0x00000000 (withEF false true false false State.reset) 0 0
    (fun t => t.ef == ⟨false, true, false, false⟩) = true := by decide

theorem test_ldm_negative : answers 0x0130FFF9 State.reset 0 0
    (fun t => intOf t.m.e3 == some (-7) && t.m.e0 == none) = true := by decide

theorem test_ldv_largest : answers 0x02100019 State.reset 0 0 (fun t => t.v == ⟨none, some 25⟩) = true := by decide
theorem test_ldv_refuses_26 : answers 0x0200001A State.reset 4 0
    (fun t => t.v == ⟨none, none⟩ && t.ef.illegalCommand) = true := by decide

theorem test_ldr_sign : answers 0x0320FFFF State.reset 0 0 (fun t => rInts t == [none, none, some (-1), none]) = true := by
  decide

theorem test_rdr_negative : answers 0x08200000 (withR 2 (-1) State.reset) 0 0xFFFFFFFF = true := by decide
theorem test_rdr_unset : answers 0x08000000 State.reset 3 0 (fun t => t.ef.emptyOrUnsetState) = true := by decide

theorem test_rdk_sign : answers 0x09000000 (withK (-3) 1 2 (-7) State.reset) 0 0xFFFFFFFD = true := by decide
theorem test_rdk_no_key : answers 0x09200000 State.reset 3 0 = true := by decide

theorem test_rds_matrix : answers 0x0A000000 (withM 3 3 2 5 State.reset) 0 0x000000F0 = true := by decide
theorem test_rds_all : answers 0x0A000000 (withEF true true true true (withR 0 1 (withR 1 1 (withR 2 1 (withR 3 1
    (withV 1 1 (withK 3 3 2 5 (withM 3 3 2 5 State.reset)))))))) 0 0x000FF3F1 = true := by decide

theorem test_clre : answers 0x0E000000 (withEF true false true false (withR 1 7 State.reset)) 0 0
    (fun t => t.ef == ⟨false, false, false, false⟩ && rInts t == [none, some 7, none, none]) = true := by decide

theorem test_srst : answers 0x0F000000 (withEF true false true false (withK 3 3 2 5 (withR 1 7 State.reset))) 0 0
    (fun t => t.status == 0) = true := by decide
theorem test_srst_illegal : answers 0x0F800000 (withK 3 3 2 5 State.reset) 4 0 (fun t => t.kv) = true := by decide

theorem test_red_negative_multiple : answers 0x10000000 (withR 0 (-26) State.reset) 0 0
    (fun t => intOf t.r.e0 == some 0) = true := by decide
theorem test_red_smallest : answers 0x10000000 (withR 0 (-2147483648) State.reset) 0 0
    (fun t => intOf t.r.e0 == some 2) = true := by decide

theorem test_minv_negative : answers 0x11300000 (withR 3 (-1) State.reset) 0 0
    (fun t => intOf t.r.e3 == some 25) = true := by decide
theorem test_minv_keeps_operand : answers 0x11100000 (withR 1 13 State.reset) 2 0
    (fun t => intOf t.r.e1 == some 13 && t.ef.noInverse) = true := by decide

theorem test_det_largest : answers 0x20000000 (withM (-32768) (-32768) 32767 (-32768) State.reset) 0 0
    (fun t => rInts t == [some 2147450880, none, none, none]) = true := by decide

theorem test_adj_wide : answers 0x21000000 (withM (-32768) (-32768) 32767 (-32768) State.reset) 0 0
    (fun t => rInts t == [some (-32768), some 32768, some (-32767), some (-32768)]) = true := by decide

theorem test_kchk_25 : answers 0x22000000 (withM 2 1 1 13 State.reset) 0 0 (fun t => ! t.ef.invalidKey) = true := by
  decide
theorem test_kchk_minus_one : answers 0x22000000 (withM 1 1 1 0 State.reset) 0 1 = true := by decide

theorem test_invm_rejected_key : answers 0x23000000 (withM 5 5 0 5 State.reset) 0 0
    (fun t => rInts t == [some 21, some 5, some 0, some 21]) = true := by decide
theorem test_invm_no_inverse : answers 0x23000000 (withM 1 2 3 4 (withR 0 7 State.reset)) 2 0
    (fun t => rInts t == [some 7, none, none, none]) = true := by decide

theorem test_setkey_raw : answers 0x30000000 (withM (-3) 1 2 (-7) State.reset) 0 0
    (fun t => kInts t == some [-3, 1, 2, -7]) = true := by decide
theorem test_setkey_drops : answers 0x30000000 (withK 3 3 2 5 (withM 5 5 0 5 State.reset)) 1 0
    (fun t => kInts t == none && t.ef.invalidKey && intOf t.m.e0 == some 5) = true := by decide

theorem test_invkey_unchecked : answers 0x31000000 (withK 1 2 25 23 State.reset) 0 0
    (fun t => kInts t == some [3, 2, 25, 25]) = true := by decide
theorem test_invkey_keeps : answers 0x31000000 (withK 1 2 3 4 State.reset) 2 0
    (fun t => kInts t == some [1, 2, 3, 4]) = true := by decide

theorem test_mulv_largest : answers 0x32000000 (withV 25 25 (withK 32767 32767 (-32768) 32767 State.reset)) 0 0
    (fun t => rInts t == [some 1638350, some (-25), none, none]) = true := by decide
theorem test_mulv_negative : answers 0x32000000 (withV 25 4 (withK (-3) 1 2 (-7) State.reset)) 0 0
    (fun t => rInts t == [some (-71), some 22, none, none]) = true := by decide

theorem test_mulvr_negative_multiple : answers 0x33000000 (withV 1 0 (withK (-26) 3 1 1 (withR 2 9 State.reset))) 0 0
    (fun t => rInts t == [some 0, some 1, some 9, none]) = true := by decide
theorem test_mulvr_unset_vector :
    answers 0x33000000 { withK 3 3 2 5 State.reset with v := ⟨some 1, none⟩ } 3 0 = true := by decide

/-! ### Host software -/

theorem test_assemble :
    assembleWords ['L', 'D', 'M', ' ', '1', ',', ' ', '-', '3', ' ', ';', 'x'] = some [0x0110FFFD] ∧
    assembleWords ['L', 'D', 'V', ' ', '0', ',', ' ', '2', '6'] = none ∧
    assembleWords ['E', 'N', 'C', 'V', ' ', '1', ',', ' ', '0'] =
      some [0x02000001, 0x02100000, 0x33000000, 0x08000000, 0x08100000] := by decide

/-- Programs P1 and P2: the vector (1, 0) becomes (3, 2) and comes back. -/
theorem test_encrypt_decrypt_vector :
    (encryptVectors [⟨1, 0⟩] (withK 3 3 2 5 State.reset)).output = [⟨3, 2⟩] ∧
    (decryptVectors [⟨3, 2⟩] (withK 3 3 2 5 State.reset)).output = [⟨1, 0⟩] := by decide

/-- S5: the normalised text "abc" is padded to "abcc". -/
theorem test_normalize_and_pad :
    pad (normalizeText ['A', ' ', 'b', '-', 'C', '1']) = ['a', 'b', 'c', 'c'] := by decide

/-! ### Witnesses: for every statement with hypotheses, states and operands that meet them -/

/-- A state with every register set, an invertible valid key (D = 9), and two sticky flags. -/
def full : State :=
  withEF false true false true (withR 0 9 (withR 1 13 (withR 2 (-1) (withR 3 2147450880
    (withV 25 25 (withK 3 3 2 5 (withM 3 3 2 5 State.reset)))))))

/-- The alphabet of a keyboard's rows: one table R127 allows. -/
def keyboard : Alphabet where
  letters := ['q', 'w', 'e', 'r', 't', 'y', 'u', 'i', 'o', 'p', 'a', 's', 'd'] ++
    ['f', 'g', 'h', 'j', 'k', 'l', 'z', 'x', 'c', 'v', 'b', 'n', 'm']
  length_eq := by decide
  nodup := by simp
  lower := by simp

theorem witness_DecodeEncodeRoundTrip : decode 0x02100019 = .ok (.ldv 1 25) := by decide

/-- One word for each item of R57, each at the edge of its range, and a legal word. -/
theorem witness_IllegalWordsOnlySetEF4 :
    IllegalWord 0x34000000 ∧ IllegalWord 0x00400000 ∧ IllegalWord 0x00010000 ∧ IllegalWord 0x30100000 ∧
    IllegalWord 0x0A00FFFF ∧ IllegalWord 0x08000001 ∧ IllegalWord 0x02200000 ∧ IllegalWord 0x0200001A ∧
    ¬ IllegalWord 0x02100019 := by
  refine ⟨?_, ?_, ?_, ?_, ?_, ?_, ?_, ?_, ?_⟩ <;> (unfold IllegalWord; decide)

theorem witness_StepRunsTheDecodedCommand :
    (full.offerNow 0x33000000).inputs = .command 0x33000000 :: [] ∧ decode 0x33000000 = .ok .mulvr ∧
    (full.offerNow 0x33000001).inputs = .command 0x33000001 :: [] ∧
    decode 0x33000001 = .error (.unusedField .mulvr) := by decide

theorem witness_IdleStepKeepsTheState : full.inputs = [] := by decide

theorem witness_ResetInputAndSrstAgree :
    ({ full with inputs := [.reset, .command 0] } : State).inputs = .reset :: [.command 0] ∧
    ({ full with inputs := [.resetDuring 0x31000000] } : State).inputs = .resetDuring 0x31000000 :: [] := by decide

theorem witness_ResetStateIsUnconfigured : ({ full with inputs := [.reset] } : State).inputs = .reset :: [] := by decide

theorem witness_CommandsStraightAfterReset :
    ({ State.reset with responses := [⟨0, 0⟩] } : State).sameBlock State.reset ∧ (1 : Fin 4).val < 2 ∧
    (25 : BitVec 16).toNat < 26 ∧ Instr.srst ∈ [Instr.nop, .ldm 0 0, .ldv 1 25, .ldr 0 0, .rds, .clre, .srst] := by
  unfold State.sameBlock; decide

/-- For each format Z opcode, a word with that opcode that is not the command's. -/
theorem witness_RejectsOthers_formatZ :
    ∀ w ∈ [0x00000000, 0x0A000000, 0x0E000000, 0x0F000000, 0x20000000, 0x21000000, 0x22000000, 0x23000000,
      0x30000000, 0x31000000, 0x32000000, (0x33000000 : Word)], wordOp (w + 1) = wordOp w ∧ w + 1 ≠ w := by
  intro w hw
  simp only [List.mem_cons, List.not_mem_nil, or_false] at hw
  rcases hw with rfl | rfl | rfl | rfl | rfl | rfl | rfl | rfl | rfl | rfl | rfl | rfl <;> decide

/-- For each format X opcode, a word with that opcode that is not the command's for any index. -/
theorem witness_RejectsOthers_formatX :
    ∀ w ∈ [0x08000000, 0x09000000, 0x10000000, (0x11000000 : Word)],
      wordOp (w + 1) = wordOp w ∧ ∀ i, w + 1 ≠ wordX w i := by
  intro w hw
  simp only [List.mem_cons, List.not_mem_nil, or_false] at hw
  rcases hw with rfl | rfl | rfl | rfl <;> decide

/-- For each format XI opcode, a word with that opcode that is not the command's for any index and immediate. -/
theorem witness_RejectsOthers_formatXI :
    ∀ w ∈ [0x01000000, 0x02000000, (0x03000000 : Word)],
      wordOp (w + 0x400000) = wordOp w ∧ ∀ i imm, w + 0x400000 ≠ wordXI w i imm := by
  intro w hw
  simp only [List.mem_cons, List.not_mem_nil, or_false] at hw
  rcases hw with rfl | rfl | rfl <;> refine ⟨by decide, fun i imm h => ?_⟩ <;>
    have h := congrArg (fun x => x.getLsbD 22) h <;> revert h <;> revert i <;>
    simp [wordXI, Fin.forall_fin_succ]

theorem witness_LdmLoadsOneMatrixEntry : (3 : Fin 4) ≠ 0 := by decide

theorem witness_LdvLoadsOneSymbol :
    (1 : Fin 2).val = (1 : Fin 4).val ∧ (25 : BitVec 16).toNat ≤ 25 ∧ (0 : Fin 2) ≠ 1 ∧
    2 ≤ (2 : Fin 4).val ∧ 26 ≤ (26 : BitVec 16).toNat := by decide

/-- A value outside 16 bits that a register keeps through LDR of another register. -/
theorem witness_LdrLoadsOneResult :
    ∃ t, exec (.ldr 0 5) full = .next t ∧ t.r.get 3 = some (toResult 2147450880) ∧
      32767 < (toResult 2147450880).toInt := ⟨_, rfl, by decide, by decide⟩

theorem witness_RdrReadsOneResult :
    full.r.get 2 = some (toResult (-1)) ∧ State.reset.r.get 0 = none := by decide

theorem witness_RdkReadsOneKeyEntry : full.k = some ⟨3, 3, 2, 5⟩ ∧ State.reset.k = none := by decide

theorem witness_StatusLayout : 31 < 32 := by decide

theorem witness_ReduceIsTheEuclideanRemainder : (0 : Int) ≤ 25 ∧ (25 : Int) ≤ 25 := by decide

theorem witness_ModInverseTable : modInverse (-205) = some 9 := by decide

theorem witness_RedReducesInPlace : full.r.get 2 = some (toResult (-1)) ∧ State.reset.r.get 0 = none := by decide

theorem witness_MinvInvertsInPlace :
    full.r.get 0 = some (toResult 9) ∧ Int.gcd (toResult 9).toInt 26 = 1 ∧
    full.r.get 1 = some (toResult 13) ∧ Int.gcd (toResult 13).toInt 26 ≠ 1 ∧ State.reset.r.get 0 = none := by decide

theorem witness_MulvecIsTwoSumsOfProducts : (⟨25, 25⟩ : Pair Sym).e0.toNat ≤ 25 ∧ (⟨25, 25⟩ : Pair Sym).e1.toNat ≤ 25 := by
  decide

theorem witness_InverseKeyIsScaledAdjugate :
    modInverse (determinant2x2 ⟨3, 3, 2, 5⟩) = some 3 ∧ inverseKeyMod ⟨3, 3, 2, 5⟩ = some ⟨15, 17, 20, 9⟩ ∧
    modInverse (determinant2x2 (matrixOf ⟨32767, -32768, -32768, 32767⟩)) = some 19 := by decide

theorem witness_InverseKeyInvertsModTwentySix : inverseKeyMod ⟨-26, 3, 1, 1⟩ = some ⟨17, 1, 9, 0⟩ := by decide

/-- M with the determinants 0, 25, 27 and 26, one with an inverse, one without, and an M with one register unset. -/
theorem witness_matrixCommands :
    (withM 2 4 1 2 full).mHolds ⟨2, 4, 1, 2⟩ ∧ detOf ⟨2, 4, 1, 2⟩ = 0 ∧
    (withM 5 5 0 5 full).mHolds ⟨5, 5, 0, 5⟩ ∧ detOf ⟨5, 5, 0, 5⟩ = 25 ∧ Int.gcd (detOf ⟨5, 5, 0, 5⟩) 26 = 1 ∧
    (withM 1 0 0 27 full).mHolds ⟨1, 0, 0, 27⟩ ∧ detOf ⟨1, 0, 0, 27⟩ = 27 ∧
    (withM 1 0 0 26 full).mHolds ⟨1, 0, 0, 26⟩ ∧ detOf ⟨1, 0, 0, 26⟩ = 26 ∧ Int.gcd (detOf ⟨1, 0, 0, 26⟩) 26 ≠ 1 ∧
    ({ full with m := ⟨some 0, some 0, some 0, none⟩ } : State).someMUnset := by
  unfold State.mHolds State.someMUnset; decide

theorem witness_InvkeyInvertsTheKey :
    full.k = some ⟨3, 3, 2, 5⟩ ∧ Int.gcd (detOf ⟨3, 3, 2, 5⟩) 26 = 1 ∧
    (withK 1 2 3 4 full).k = some ⟨1, 2, 3, 4⟩ ∧ Int.gcd (detOf ⟨1, 2, 3, 4⟩) 26 ≠ 1 ∧ State.reset.k = none := by decide

/-- Key and vector present; no key; one vector register unset. -/
theorem witness_multiplierCommands :
    full.k = some ⟨3, 3, 2, 5⟩ ∧ full.vHolds ⟨25, 25⟩ ∧ ({ full with k := none } : State).keyOrVectorUnset ∧
    ({ full with v := ⟨some 1, none⟩ } : State).keyOrVectorUnset := by
  unfold State.vHolds State.keyOrVectorUnset; decide

theorem witness_MulvrIsMulvThenReduce :
    (∃ t, exec .mulv full = .next t ∧ Replies full t 0 0) ∧
    (∃ t, exec .mulv State.reset = .next t ∧ ¬ Replies State.reset t 0 0) :=
  ⟨⟨_, rfl, rfl, rfl⟩, ⟨_, rfl, fun h => absurd h.1 (by decide)⟩⟩

theorem witness_EncryptThenDecryptGivesBackThePair :
    full.mHolds ⟨3, 3, 2, 5⟩ ∧ isValidKey (matrixOf ⟨3, 3, 2, 5⟩) = true ∧ Int.gcd (detOf ⟨3, 3, 2, 5⟩) 26 = 1 := by
  unfold State.mHolds; decide

theorem full_inv : full.Inv := by
  refine ⟨by decide, fun q hq => .inl ?_, fun a ha => nomatch ha⟩
  cases hq; decide

theorem witness_EveryStepKeepsTheInvariant :
    (full.offerNow 0x31000000).Inv ∧ ∃ t, step (full.offerNow 0x31000000) = .next t := ⟨full_inv, _, rfl⟩

/-- A word and state for each of the codes 4, 3, 1 and 2. -/
theorem witness_EveryErrorHasItsOneCause :
    IllegalWord 0x33000001 ∧ Instr.mulv.Missing State.reset ∧
    (¬ Instr.setkey.Missing (withM 5 5 0 5 full) ∧ Instr.setkey.KeyRejected (withM 5 5 0 5 full)) ∧
    (¬ (Instr.minv 1).Missing full ∧ (Instr.minv 1).NotInvertible full) := by
  refine ⟨by unfold IllegalWord; decide, .inl rfl, ⟨?_, rfl, ⟨5, 5, 0, 5⟩, by unfold State.mHolds; decide, by decide⟩, ?_,
    toResult 13, by decide, by decide⟩
  · change ¬ State.someMUnset _; unfold State.someMUnset; decide
  · change ¬ (full.r.get 1 = none); decide

theorem witness_CommandsWriteOnlyWhatTheMatrixMarks :
    (∃ t, exec .det full = .next t) ∧ ¬ Instr.det.writesM 0 ∧ ¬ Instr.det.writesV 0 ∧ ¬ Instr.det.writesK ∧
    ¬ Instr.det.writesR 1 ∧ ¬ Instr.det.clearsEF ∧ full.ef.get .noInverse = true := by
  refine ⟨⟨_, rfl⟩, id, id, id, ?_, id, by decide⟩
  change ¬ ((1 : Fin 4) = 0); decide

/-- Two states with different keys that agree on K[0], which is all that RDK 0 reads. -/
theorem witness_CommandsReadOnlyWhatTheMatrixMarks :
    (Instr.rdk 0).ReadsAgree full (withK 3 7 7 7 full) ∧ full ≠ withK 3 7 7 7 full := ⟨rfl, by decide⟩

theorem witness_OnlySetkeyMakesAKey :
    (∃ t, exec .setkey { full with k := none } = .next t ∧ t.k ≠ none) ∧
    (∃ t, exec .setkey (withM 5 5 0 5 full) = .next t ∧ full.k ≠ none ∧ t.k = none) :=
  ⟨⟨_, rfl, by decide⟩, ⟨_, rfl, by decide, by decide⟩⟩

theorem witness_ErrorFlagsAreSticky :
    (∃ t, execute 0x0E000000 full = .next t) ∧ decode 0x0E000000 = .ok .clre ∧
    (∃ t, execute 0x00000001 full = .next t ∧ Replies full t ErrorKind.illegalCommand.code 0) :=
  ⟨⟨_, rfl⟩, by decide, ⟨_, rfl, rfl, rfl⟩⟩

theorem witness_ReadCommandsRepeat :
    ∀ i ∈ [Instr.rdr 2, .rdk 2, .rds, .kchk], ∃ t data, exec i full = .next t ∧ Replies full t 0 data := by
  intro i hi
  simp only [List.mem_cons, List.not_mem_nil, or_false] at hi
  rcases hi with rfl | rfl | rfl | rfl
  · exact ⟨_, _, rfl, rfl, rfl⟩
  · exact ⟨_, _, rfl, rfl, rfl⟩
  · exact ⟨_, _, rfl, rfl, rfl⟩
  · exact ⟨_, _, rfl, rfl, rfl⟩

theorem witness_EveryWordGetsOneResponse :
    ({ full with inputs := [.command 0x33000000, .command 0x04000000] } : State).inputs =
      [0x33000000, 0x04000000].map .command := by decide

theorem witness_EqualBlocksAnswerAlike :
    full.sameBlock { full with responses := [⟨3, 0⟩] } ∧ full.inputs = ({ full with responses := [⟨3, 0⟩] } : State).inputs :=
  ⟨⟨rfl, rfl, rfl, rfl, rfl⟩, rfl⟩

theorem witness_hostSequences :
    full.k = some ⟨3, 3, 2, 5⟩ ∧ Int.gcd (detOf ⟨3, 3, 2, 5⟩) 26 = 1 ∧
    (withK 1 2 3 4 full).k = some ⟨1, 2, 3, 4⟩ ∧ Int.gcd (detOf ⟨1, 2, 3, 4⟩) 26 ≠ 1 ∧ State.reset.k = none ∧
    [(⟨1, 0⟩ : Pair Symbol)] ≠ [] := by decide

theorem witness_TextRoundTrip :
    keyboard.letters.length = 26 ∧ full.k = some ⟨3, 3, 2, 5⟩ ∧ Int.gcd (detOf ⟨3, 3, 2, 5⟩) 26 = 1 ∧
    normalizeText ['a', 'b', 'c'] ≠ [] := by decide

theorem witness_AssemblerMakesNoIllegalWord :
    ∃ ws, assembleWords ['S', 'E', 'T', 'K', 'E', 'Y'] = some ws ∧ 0x30000000 ∈ ws := ⟨_, rfl, by decide⟩

end Sys2Proof.Tests
end

/-! PROOF. Two equal blocks answer alike (10_state.md R30, 00_scope.md R9). The state is the block of R20 and the two
ports; no command looks at a port, so what a command does to a block with one pair of ports it does to the same block
with any other pair, up to the one response it adds. Steps and runs then carry the earlier responses along unread. -/

namespace Sys2Proof.Machine

/-! ### A block on other ports -/

/-- The block of `s` with other contents on its two ports. -/
def State.onPorts (is : List HostInput) (rs : List Response) (s : State) : State :=
  { s with inputs := is, responses := rs }

section
variable (s : State) (is : List HostInput) (rs : List Response)

@[simp] theorem State.onPorts_inputs : (s.onPorts is rs).inputs = is := rfl
@[simp] theorem State.onPorts_responses : (s.onPorts is rs).responses = rs := rfl
@[simp] theorem State.readM_onPorts : (s.onPorts is rs).readM = s.readM := rfl
@[simp] theorem State.readV_onPorts : (s.onPorts is rs).readV = s.readV := rfl
@[simp] theorem State.readK_onPorts : (s.onPorts is rs).readK = s.readK := rfl
@[simp] theorem State.readR_onPorts (i : Fin 4) : (s.onPorts is rs).readR i = s.readR i := rfl

theorem State.sameBlock_onPorts : s.sameBlock (s.onPorts is rs) := ⟨rfl, rfl, rfl, rfl, rfl⟩

end

/-- Equal blocks differ in their ports only. -/
theorem State.sameBlock.eq_onPorts {s t : State} (h : s.sameBlock t) : t = s.onPorts t.inputs t.responses := by
  obtain ⟨hm, hv, hk, hr, hef⟩ := h
  exact State.ext hm.symm hv.symm hk.symm hr.symm hef.symm rfl rfl

/-! ### One command -/

/-- `a` is one reply from `s`, and `a'` is the same reply from the same block on the ports `is` and `rs`. -/
def RepliesAlike (s : State) (is : List HostInput) (rs : List Response) (a a' : Answer) : Prop :=
  ∃ t code data, a = .next t ∧ Replies s t code data ∧ a' = .next (t.onPorts is (rs ++ [⟨code, data⟩]))

section
variable {s u u' : State} {is : List HostInput} {rs : List Response}

theorem RepliesAlike.respond {d : Word} (hu : u' = u.onPorts is rs) (hi : u.inputs = s.inputs)
    (hr : u.responses = s.responses) : RepliesAlike s is rs (respond d u) (respond d u') := by
  subst hu
  exact ⟨u.give 0 d, 0, d, rfl, ⟨by simp [hr], hi⟩, rfl⟩

theorem RepliesAlike.raiseError {e : ErrorKind} (hu : u' = u.onPorts is rs) (hi : u.inputs = s.inputs)
    (hr : u.responses = s.responses) : RepliesAlike s is rs (raiseError e u) (raiseError e u') := by
  subst hu
  exact ⟨State.give e.code 0 { u with ef := u.ef.raise e }, e.code, 0, rfl, ⟨by simp [hr], hi⟩, rfl⟩

end

/-- Every command gives one reply, and the ports decide neither the reply nor what happens to the block. -/
theorem exec_repliesAlike (i : Instr) (s : State) (is : List HostInput) (rs : List Response) :
    RepliesAlike s is rs (exec i s) (exec i (s.onPorts is rs)) := by
  cases i with
  | nop | ldm | ldr | rds | clre | srst => exact .respond rfl rfl rfl
  | ldv idx imm =>
    simp only [exec, execLdv]
    split
    · split
      · exact .respond rfl rfl rfl
      · exact .raiseError rfl rfl rfl
    · exact .raiseError rfl rfl rfl
  | rdr idx | red idx =>
    simp only [exec, execRdr, execRed, State.readR_onPorts]
    cases s.readR idx with
    | none => exact .raiseError rfl rfl rfl
    | some x => exact .respond rfl rfl rfl
  | rdk idx =>
    simp only [exec, execRdk, State.readK_onPorts]
    cases s.readK with
    | none => exact .raiseError rfl rfl rfl
    | some q => exact .respond rfl rfl rfl
  | det | adj | kchk =>
    simp only [exec, execDet, execAdj, execKchk, State.readM_onPorts]
    cases s.readM with
    | none => exact .raiseError rfl rfl rfl
    | some q => exact .respond rfl rfl rfl
  | setkey =>
    simp only [exec, execSetkey, State.readM_onPorts]
    cases s.readM with
    | none => exact .raiseError rfl rfl rfl
    | some q =>
      dsimp only
      split
      · exact .respond rfl rfl rfl
      · exact .raiseError rfl rfl rfl
  | minv idx =>
    simp only [exec, execMinv, State.readR_onPorts]
    cases s.readR idx with
    | none => exact .raiseError rfl rfl rfl
    | some x =>
      dsimp only
      cases modInverse x.toInt with
      | none => exact .raiseError rfl rfl rfl
      | some b => exact .respond rfl rfl rfl
  | invm =>
    simp only [exec, execInvm, State.readM_onPorts]
    cases s.readM with
    | none => exact .raiseError rfl rfl rfl
    | some q =>
      dsimp only
      cases inverseKeyMod (matrixOf q) with
      | none => exact .raiseError rfl rfl rfl
      | some n => exact .respond rfl rfl rfl
  | invkey =>
    simp only [exec, execInvkey, State.readK_onPorts]
    cases s.readK with
    | none => exact .raiseError rfl rfl rfl
    | some q =>
      dsimp only
      cases inverseKeyMod (matrixOf q) with
      | none => exact .raiseError rfl rfl rfl
      | some n => exact .respond rfl rfl rfl
  | mulv | mulvr =>
    simp only [exec, execMulv, execMulvr, State.readK_onPorts, State.readV_onPorts]
    cases s.readK with
    | none => exact .raiseError rfl rfl rfl
    | some q =>
      cases s.readV with
      | none => exact .raiseError rfl rfl rfl
      | some p => exact .respond rfl rfl rfl

/-- Decoding reads no state, so an illegal word is answered alike as well (30_encoding.md R57). -/
theorem execute_repliesAlike (w : Word) (s : State) (is : List HostInput) (rs : List Response) :
    RepliesAlike s is rs (execute w s) (execute w (s.onPorts is rs)) := by
  unfold execute
  cases decode w with
  | ok i => exact exec_repliesAlike i s is rs
  | error e => exact .raiseError rfl rfl rfl

/-! ### Steps and runs -/

/-- `a` goes on from `s`, and `a'` goes on alike from `s` with the earlier responses `rs`: both give the same further
responses and leave the same block with the same inputs. -/
def GoesOnAlike (s : State) (rs : List Response) (a a' : Answer) : Prop :=
  ∃ t answers, a = .next t ∧ t.responses = s.responses ++ answers ∧
    a' = .next (t.onPorts t.inputs (rs ++ answers))

/-- A step takes its input from the port and never looks at the earlier responses. -/
theorem step_goesOnAlike (s : State) (rs : List Response) :
    GoesOnAlike s rs (step s) (step (s.onPorts s.inputs rs)) := by
  obtain ⟨m, v, k, r, ef, inputs, responses⟩ := s
  cases inputs with
  | nil => exact ⟨_, [], rfl, (List.append_nil _).symm, by rw [List.append_nil]; rfl⟩
  | cons x rest =>
    cases x with
    | command w =>
      obtain ⟨t, code, data, ht, ⟨hresp, hin⟩, ht'⟩ :=
        execute_repliesAlike w ⟨m, v, k, r, ef, rest, responses⟩ rest rs
      exact ⟨t, [⟨code, data⟩], ht, hresp, hin ▸ ht'⟩
    | reset | resetDuring => exact ⟨_, [], rfl, (List.append_nil _).symm, by rw [List.append_nil]; rfl⟩

/-- A run continues from the state its first step leaves. -/
theorem run_succ_of_step {n : Nat} {s t : State} (h : step s = .next t) : core.run (n + 1) s = core.run n t := by
  have hstep : core.step s = .next t := h
  simp only [Host.Core.run, hstep]

/-- Runs, like steps, carry the earlier responses along unread. -/
theorem run_goesOnAlike (n : Nat) (s : State) (rs : List Response) :
    GoesOnAlike s rs (core.run n s) (core.run n (s.onPorts s.inputs rs)) := by
  induction n generalizing s rs with
  | zero => exact ⟨s, [], rfl, (List.append_nil _).symm, by rw [List.append_nil]; rfl⟩
  | succ n ih =>
    obtain ⟨t, first, ht, hresp, ht'⟩ := step_goesOnAlike s rs
    obtain ⟨u, later, hu, hresp', hu'⟩ := ih t (rs ++ first)
    refine ⟨u, first ++ later, (run_succ_of_step ht).trans hu, ?_, ?_⟩
    · rw [hresp', hresp, List.append_assoc]
    · rw [run_succ_of_step ht', hu', List.append_assoc]

/-- Settles O51: the second state is the first one's block with other earlier responses, so its run is the first one's
with the same answers after those. -/
theorem equalBlocksAnswerAlike : Obligations.EqualBlocksAnswerAlike := by
  intro n s₁ s₂ hblock hinputs
  obtain ⟨t, answers, ht, hresp, ht'⟩ := run_goesOnAlike n s₁ s₂.responses
  have hs₂ : s₂ = s₁.onPorts s₁.inputs s₂.responses := hinputs ▸ hblock.eq_onPorts
  exact ⟨t, t.onPorts t.inputs (s₂.responses ++ answers), answers, ht, hs₂ ▸ ht', t.sameBlock_onPorts _ _, rfl,
    hresp, rfl⟩

end Sys2Proof.Machine


/-! PROOF. The state after reset (10_state.md R33) and the layout of STATUS (R27). A reset, by `rst` or by SRST, leaves
the reset state's block on whatever the ports hold, so R33's table is read off that one block. STATUS is flags and
zeros side by side, so its bits are the bits of those fields. -/

namespace Sys2Proof.Machine

/-! ### After a reset -/

/-- STATUS is built from the block's flags alone. -/
theorem State.status_onPorts (s : State) (is : List HostInput) (rs : List Response) :
    (s.onPorts is rs).status = s.status := rfl

theorem State.status_reset : State.reset.status = 0 := by decide

/-- R33's table says nothing of the ports. -/
theorem State.unconfigured_reset_onPorts (is : List HostInput) (rs : List Response) :
    (State.reset.onPorts is rs).Unconfigured := by
  refine ⟨?_, ?_, rfl, ?_, (State.status_onPorts _ _ _).trans State.status_reset⟩
  · exact (forall_index _).2 ⟨⟨rfl, rfl⟩, ⟨rfl, rfl⟩, ⟨rfl, rfl⟩, ⟨rfl, rfl⟩⟩
  · exact Fin.forall_fin_two.2 ⟨rfl, rfl⟩
  · intro e
    cases e with
    | invalidKey | noInverse | emptyOrUnsetState | illegalCommand => rfl

/-- `rst` between commands leaves the reset block with the remaining inputs and all earlier responses. -/
theorem step_of_inputs_reset {s : State} {rest : List HostInput} (h : s.inputs = .reset :: rest) :
    step s = .next (State.reset.onPorts rest s.responses) := by
  obtain ⟨m, v, k, r, ef, inputs, responses⟩ := s
  obtain rfl : inputs = .reset :: rest := h
  rfl

/-- SRST leaves the reset block and adds its response (0, 0). -/
theorem exec_srst (s : State) :
    exec .srst s = .next (State.reset.onPorts s.inputs (s.responses ++ [⟨0, 0⟩])) := rfl

/-- Settles O8: at reset, after `rst` and after SRST the block is the reset state's own. -/
theorem resetStateIsUnconfigured : Obligations.ResetStateIsUnconfigured :=
  ⟨State.unconfigured_reset_onPorts [] [], fun s =>
    ⟨fun _ h => ⟨_, step_of_inputs_reset h, State.unconfigured_reset_onPorts _ _⟩,
      ⟨_, exec_srst s, State.unconfigured_reset_onPorts _ _⟩⟩⟩

/-! ### STATUS, bit by bit -/

/-- The bits of a nibble are its arguments in order. -/
theorem nibble_getLsbD (b0 b1 b2 b3 : Bool) (n : Nat) :
    (nibble b0 b1 b2 b3).getLsbD n = [b0, b1, b2, b3].getD n false := by
  simp only [nibble, BitVec.getLsbD_append, BitVec.getLsbD_ofBool]
  match n with
  | 0 | 1 | 2 | 3 => rfl
  | n + 4 => simp

/-- Settles O16: a bit of the joined fields is a bit of the field its position lies in, at each of the 32 positions the
one of R27's table. -/
theorem statusLayout : Obligations.StatusLayout := by
  intro s b hb
  simp only [State.status, BitVec.getLsbD_append, nibble_getLsbD, BitVec.getLsbD_ofBool, BitVec.getLsbD_zero]
  interval_cases b <;> rfl

end Sys2Proof.Machine


/-! PROOF. The illegal words (30_encoding.md R57). R57's five items are written on the word's numbers; the decoder tests
the word's fields, in the same order. Item by item the two say the same, so a word decodes exactly when no item names
it. -/

namespace Sys2Proof

open Machine

/-! ### What the decoder tests, as numbers -/

/-- R57 item 1: the opcode map takes exactly the opcodes of the three formats. -/
theorem opOfCode_eq_none_iff (c : BitVec 8) : opOfCode c = none ↔ c.toNat ∉ opsZ ++ opsX ++ opsXI := by
  revert c; decide

theorem Op.code_mem_opsZ_iff (o : Op) : o.code.toNat ∈ opsZ ↔ o.format = .z := by
  cases o <;> decide

theorem Op.code_mem_opsX_iff (o : Op) : o.code.toNat ∈ opsX ↔ o.format = .x := by
  cases o <;> decide

theorem Op.code_eq_two_iff (o : Op) : o.code.toNat = 0x02 ↔ o = .ldv := by
  cases o <;> decide

/-- R57 item 2, on either reserved field. -/
theorem fieldRsv1_ne_zero_iff (w : Word) : fieldRsv1 w ≠ 0 ↔ wordRsv1 w ≠ 0 := by
  rw [ne_eq, BitVec.toNat_eq, fieldRsv1_toNat]; rfl

theorem fieldRsv0_ne_zero_iff (w : Word) : fieldRsv0 w ≠ 0 ↔ wordRsv0 w ≠ 0 := by
  rw [ne_eq, BitVec.toNat_eq, fieldRsv0_toNat]; rfl

theorem fieldIdx_ne_zero_iff (w : Word) : fieldIdx w ≠ 0 ↔ wordIdx w ≠ 0 := by
  rw [ne_eq, Fin.ext_iff, fieldIdx_val]; rfl

theorem fieldImm_ne_zero_iff (w : Word) : fieldImm w ≠ 0 ↔ wordImm w ≠ 0 := by
  rw [ne_eq, BitVec.toNat_eq, fieldImm_toNat]; rfl

/-- R57 items 3 and 4: format Z leaves out both operand fields, format X the immediate. -/
theorem fieldsFit_eq_false_iff (f : Format) (idx : Fin 4) (imm : BitVec 16) :
    fieldsFit f idx imm = false ↔ (f = .z ∧ (idx ≠ 0 ∨ imm ≠ 0)) ∨ (f = .x ∧ imm ≠ 0) := by
  cases f with
  | z => simp [fieldsFit, imp_iff_not_or]
  | x => simp [fieldsFit]
  | xi => simp [fieldsFit]

/-- R57 item 5, on either operand of LDV. -/
theorem ldvIndexOk_fieldIdx_eq_false_iff (w : Word) : ldvIndexOk (fieldIdx w) = false ↔ wordIdx w ≥ 2 := by
  rw [ldvIndexOk, decide_eq_false_iff_not, fieldIdx_val, not_lt]; rfl

theorem ldvSymbolOk_fieldImm_eq_false_iff (w : Word) : ldvSymbolOk (fieldImm w) = false ↔ wordImm w ≥ 26 := by
  rw [ldvSymbolOk, decide_eq_false_iff_not, fieldImm_toNat, not_lt]; rfl

/-! ### The decoder refuses the illegal words -/

/-- The items of R57 on a word whose opcode selects `o`, as the decoder tests them. -/
theorem illegalWord_iff_of_opcode {w : Word} {o : Op} (h : opOfCode (fieldOp w) = some o) :
    IllegalWord w ↔ (fieldRsv1 w ≠ 0 ∨ fieldRsv0 w ≠ 0) ∨ fieldsFit o.format (fieldIdx w) (fieldImm w) = false ∨
      (o = .ldv ∧ (ldvIndexOk (fieldIdx w) = false ∨ ldvSymbolOk (fieldImm w) = false)) := by
  have hop : wordOp w = o.code.toNat := by rw [code_of_opOfCode h, fieldOp_toNat]; rfl
  have hdefined : ¬ o.code.toNat ∉ opsZ ++ opsX ++ opsXI := by
    rw [← opOfCode_eq_none_iff, Op.opOfCode_code]; exact Option.some_ne_none o
  simp only [IllegalWord, hop, hdefined, false_or, o.code_mem_opsZ_iff, o.code_mem_opsX_iff, o.code_eq_two_iff,
    fieldsFit_eq_false_iff, fieldRsv1_ne_zero_iff, fieldRsv0_ne_zero_iff, fieldIdx_ne_zero_iff, fieldImm_ne_zero_iff,
    ldvIndexOk_fieldIdx_eq_false_iff, ldvSymbolOk_fieldImm_eq_false_iff, or_assoc]

/-- A word decodes to some command exactly when it is not one of the illegal words. -/
theorem exists_decode_eq_ok_iff (w : Word) : (∃ i, decode w = .ok i) ↔ ¬ IllegalWord w := by
  cases h : opOfCode (fieldOp w) with
  | none =>
    have hundefined : wordOp w ∉ opsZ ++ opsX ++ opsXI := by
      rw [opOfCode_eq_none_iff, fieldOp_toNat] at h; exact h
    have hillegal : IllegalWord w := .inl hundefined
    simp [decode, h, hillegal]
  | some o =>
    rw [illegalWord_iff_of_opcode h]
    simp only [decode, h]
    split_ifs with hrsv hfit hidx hsym
    · exact iff_of_false nofun (not_not_intro (.inl hrsv))
    · exact iff_of_false nofun (not_not_intro (.inr (.inl hfit)))
    · exact iff_of_false nofun (not_not_intro (.inr (.inr (hidx.imp_right .inl))))
    · exact iff_of_false nofun (not_not_intro (.inr (.inr (hsym.imp_right .inr))))
    · refine iff_of_true ⟨_, rfl⟩ ?_
      rintro (hbits | hfield | ⟨hldv, hindex | hsymbol⟩)
      · exact hrsv hbits
      · exact hfit hfield
      · exact hidx ⟨hldv, hindex⟩
      · exact hsym ⟨hldv, hsymbol⟩

end Sys2Proof

namespace Sys2Proof.Machine

/-! ### What executing a word does -/

/-- `raiseError` is `raise e` of R140, with its whole frame. -/
theorem raises_raiseError (e : ErrorKind) (s : State) : Raises (raiseError e s) e s :=
  ⟨_, rfl, rfl, rfl, rfl, rfl, s.ef.get_raise e, rfl, rfl⟩

theorem execute_of_decode_ok {w : Word} {i : Instr} (h : decode w = .ok i) (s : State) :
    execute w s = exec i s := by
  simp only [execute, h]

theorem execute_of_decode_error {w : Word} {e : DecodeError} (h : decode w = .error e) (s : State) :
    execute w s = raiseError .illegalCommand s := by
  simp only [execute, h]

/-- Settles O2: a word decodes exactly when it is not illegal, and a word that does not decode raises
IllegalCommand. -/
theorem illegalWordsOnlySetEF4 : Obligations.IllegalWordsOnlySetEF4 := by
  intro w s
  have hlegal := exists_decode_eq_ok_iff w
  cases h : decode w with
  | ok i =>
    exact ⟨fun hillegal => absurd hillegal (hlegal.1 ⟨i, h⟩), fun _ => ⟨i, rfl, execute_of_decode_ok h s⟩⟩
  | error e =>
    refine ⟨fun _ => execute_of_decode_error h s ▸ raises_raiseError .illegalCommand s, fun hnot => ?_⟩
    obtain ⟨i, hi⟩ := hlegal.2 hnot
    rw [h] at hi
    cases hi

end Sys2Proof.Machine


/-! PROOF. Control and data movement (40_control.md R67 to R75). Three things serve every command: it has one word, its
encoding (30_encoding.md R59), so any other word with its opcode is illegal; a response leaves the block alone; and an
integer of a register comes back whole from the word that carries it. What each command does is then read off its
meaning. -/

namespace Sys2Proof

open Machine

/-! ### The decoder and the encoder agree -/

/-- Reserved bits apart, a word is the join of its fields. -/
theorem assembleFields_fields {w : Word} (h1 : fieldRsv1 w = 0) (h0 : fieldRsv0 w = 0) :
    assembleFields (fieldOp w) (fieldIdx w) (fieldImm w) = w := by
  apply BitVec.eq_of_toNat_eq
  rw [BitVec.toNat_eq, fieldRsv1_toNat] at h1
  rw [BitVec.toNat_eq, fieldRsv0_toNat] at h0
  rw [assembleFields_toNat, fieldOp_toNat, fieldIdx_val, fieldImm_toNat]
  change _ = 0 at h1 h0
  omega

/-- A command's own operands fit its format. -/
theorem Instr.fieldsFit_op (i : Instr) : fieldsFit i.op.format i.idx i.imm = true := by
  cases i <;> rfl

/-- Operands that fit the operation's format are the operands of its command. -/
theorem Op.fields_withOperands (o : Op) {idx : Fin 4} {imm : BitVec 16} (h : fieldsFit o.format idx imm = true) :
    (o.withOperands idx imm).op = o ∧ (o.withOperands idx imm).idx = idx ∧ (o.withOperands idx imm).imm = imm := by
  cases o with
  | ldm | ldv | ldr => exact ⟨rfl, rfl, rfl⟩
  | rdr | rdk | red | minv => exact ⟨rfl, rfl, (beq_iff_eq.1 h).symm⟩
  | nop | rds | clre | srst | det | adj | kchk | invm | setkey | invkey | mulv | mulvr =>
    obtain ⟨hidx, himm⟩ := Bool.and_eq_true_iff.1 h
    exact ⟨rfl, (beq_iff_eq.1 hidx).symm, (beq_iff_eq.1 himm).symm⟩

/-- Only LDV restricts its operands. -/
theorem Instr.wellFormed_iff (i : Instr) :
    i.wellFormed = true ↔ ¬ (i.op = .ldv ∧ ldvIndexOk i.idx = false) ∧ ¬ (i.op = .ldv ∧ ldvSymbolOk i.imm = false) := by
  cases i <;> simp [Instr.wellFormed, Instr.op, Instr.idx, Instr.imm]

/-- A well-formed command's encoding passes every test of the decoder and gives the command back. -/
theorem decode_encode {i : Instr} (h : i.wellFormed = true) : decode (encode i) = .ok i := by
  obtain ⟨hop, hrsv1, hidx, hrsv0, himm⟩ := Laws.Fields.of_assembleFields i
  obtain ⟨hindex, hsymbol⟩ := i.wellFormed_iff.1 h
  simp only [decode, hop, Op.opOfCode_code, hrsv1, hrsv0, hidx, himm, i.fieldsFit_op, ne_eq, not_true_eq_false,
    or_self, Bool.true_eq_false, if_false, hindex, hsymbol, Op.withOperands_of_instr]

/-- A word decodes to well-formed commands only, and only to one it is the encoding of. -/
theorem wellFormed_and_encode_of_decode {w : Word} {i : Instr} (h : decode w = .ok i) :
    i.wellFormed = true ∧ encode i = w := by
  unfold decode at h
  split at h
  · cases h
  · next o ho =>
    split_ifs at h with hrsv hfit hindex hsymbol
    cases h
    obtain ⟨hop, hidx, himm⟩ := o.fields_withOperands (Bool.not_eq_false _ ▸ hfit)
    obtain ⟨hrsv1, hrsv0⟩ := not_or.1 hrsv
    refine ⟨?_, ?_⟩
    · rw [Instr.wellFormed_iff, hop, hidx, himm]
      exact ⟨hindex, hsymbol⟩
    · rw [encode, hop, hidx, himm, code_of_opOfCode ho]
      exact assembleFields_fields (not_not.1 hrsv1) (not_not.1 hrsv0)

/-- A well-formed command has one word, the join of its operation's opcode and its operands. -/
theorem encodedAs_assembleFields {o : Op} {idx : Fin 4} {imm : BitVec 16} (hfit : fieldsFit o.format idx imm = true)
    (hwf : (o.withOperands idx imm).wellFormed = true) :
    EncodedAs (o.withOperands idx imm) (assembleFields o.code idx imm) := by
  obtain ⟨hop, hidx, himm⟩ := o.fields_withOperands hfit
  have hword : encode (o.withOperands idx imm) = assembleFields o.code idx imm := by rw [encode, hop, hidx, himm]
  intro u
  exact ⟨fun hu => hword ▸ (wellFormed_and_encode_of_decode hu).2.symm, fun hu => hu ▸ hword ▸ decode_encode hwf⟩

/-- The opcode of a command's encoding is its operation's. -/
theorem wordOp_encode (i : Instr) : wordOp (encode i) = i.op.code.toNat := by
  rw [← (Laws.Fields.of_assembleFields i).1, fieldOp_toNat]; rfl

theorem Op.code_toNat_inj {o p : Op} (h : o.code.toNat = p.code.toNat) : o = p := by
  have hcode : o.code = p.code := BitVec.eq_of_toNat_eq h
  exact Option.some.inj (by rw [← o.opOfCode_code, hcode, p.opOfCode_code])

/-- A word with an operation's opcode is illegal unless it joins that opcode and operands the operation takes (R57). -/
theorem rejectsOthers_of_assembleFields {o : Op} {legal : Word → Prop}
    (hlegal : ∀ idx imm, fieldsFit o.format idx imm = true → (o.withOperands idx imm).wellFormed = true →
      legal (assembleFields o.code idx imm)) : RejectsOthers o.code.toNat legal := by
  intro u s hop hnot
  cases h : decode u with
  | error e => exact execute_of_decode_error h s ▸ raises_raiseError .illegalCommand s
  | ok i =>
    obtain ⟨hwf, rfl⟩ := wellFormed_and_encode_of_decode h
    obtain rfl : i.op = o := Op.code_toNat_inj (wordOp_encode i ▸ hop)
    rw [← Op.withOperands_of_instr i] at hwf
    exact absurd (hlegal i.idx i.imm i.fieldsFit_op hwf) hnot

/-! ### The words of the three formats -/

/-- The word of an operation with all operand fields 0. -/
def Op.baseWord (o : Op) : Word := assembleFields o.code 0 0

/-- Operand fields fill zeros of the base word, so joining them is the spec's bitwise or. -/
theorem assembleFields_eq_wordXI (o : Op) (idx : Fin 4) (imm : BitVec 16) :
    assembleFields o.code idx imm = wordXI o.baseWord idx imm := by
  have hop := o.code.isLt
  have hidx := idx.isLt
  have himm := imm.isLt
  have hor : (o.code.toNat * 2 ^ 24 ||| idx.val * 2 ^ 20) ||| imm.toNat =
      o.code.toNat * 2 ^ 24 + idx.val * 2 ^ 20 + imm.toNat := by
    have hfirst := Nat.two_pow_add_eq_or_of_lt (i := 24) (b := idx.val * 2 ^ 20) (by omega) o.code.toNat
    have hsecond := Nat.two_pow_add_eq_or_of_lt himm (2 ^ 8 * o.code.toNat + idx.val * 2 ^ 4)
    rw [show 2 ^ 16 * (2 ^ 8 * o.code.toNat + idx.val * 2 ^ 4) = 2 ^ 24 * o.code.toNat + idx.val * 2 ^ 20 by omega]
      at hsecond
    rw [Nat.mul_comm o.code.toNat, ← hfirst, ← hsecond]
  have hbase : o.baseWord.toNat = o.code.toNat * 2 ^ 24 := by
    simp [Op.baseWord, assembleFields_toNat]
  have hshift : (BitVec.ofNat 32 idx.val <<< 20).toNat = idx.val * 2 ^ 20 := by
    rw [BitVec.toNat_shiftLeft, BitVec.toNat_ofNat, Nat.shiftLeft_eq]
    omega
  have hextend : (imm.setWidth 32).toNat = imm.toNat := BitVec.toNat_setWidth_of_le (by decide)
  apply BitVec.eq_of_toNat_eq
  rw [assembleFields_toNat, wordXI, BitVec.toNat_or, BitVec.toNat_or, hbase, hshift, hextend, hor]

/-- Without an immediate the or with it drops out. -/
theorem assembleFields_eq_wordX (o : Op) (idx : Fin 4) : assembleFields o.code idx 0 = wordX o.baseWord idx :=
  (assembleFields_eq_wordXI o idx 0).trans BitVec.or_zero

/-- Only LDV has ill-formed commands. -/
theorem Op.wellFormed_withOperands {o : Op} (h : o ≠ .ldv) (idx : Fin 4) (imm : BitVec 16) :
    (o.withOperands idx imm).wellFormed = true := by
  cases o with
  | ldv => exact absurd rfl h
  | nop | ldm | ldr | rdr | rdk | rds | clre | srst | red | minv | det | adj | kchk | invm | setkey | invkey | mulv
  | mulvr => rfl

/-- Format Z: the base word is the operation's only legal word (R52). -/
theorem words_formatZ {o : Op} (h : o.format = .z) :
    EncodedAs (o.withOperands 0 0) o.baseWord ∧ RejectsOthers o.code.toNat (· = o.baseWord) := by
  have hldv : o ≠ .ldv := by rintro rfl; cases h
  refine ⟨encodedAs_assembleFields (by rw [h]; rfl) (Op.wellFormed_withOperands hldv 0 0),
    rejectsOthers_of_assembleFields fun idx imm hfit _ => ?_⟩
  rw [h] at hfit
  obtain ⟨hidx, himm⟩ := Bool.and_eq_true_iff.1 hfit
  rw [beq_iff_eq.1 hidx, beq_iff_eq.1 himm, Op.baseWord]

/-- Format X: one legal word for each index (R53). -/
theorem words_formatX {o : Op} (h : o.format = .x) :
    (∀ idx, EncodedAs (o.withOperands idx 0) (wordX o.baseWord idx)) ∧
      RejectsOthers o.code.toNat (fun w => ∃ idx, w = wordX o.baseWord idx) := by
  have hldv : o ≠ .ldv := by rintro rfl; cases h
  refine ⟨fun idx => ?_, rejectsOthers_of_assembleFields fun idx imm hfit _ => ⟨idx, ?_⟩⟩
  · rw [← assembleFields_eq_wordX]
    exact encodedAs_assembleFields (by rw [h]; rfl) (Op.wellFormed_withOperands hldv idx 0)
  · rw [h] at hfit
    rw [beq_iff_eq.1 hfit, assembleFields_eq_wordX]

/-- Format XI without LDV: one legal word for each index and immediate (R54). -/
theorem words_formatXI {o : Op} (h : o.format = .xi) (hldv : o ≠ .ldv) :
    (∀ idx imm, EncodedAs (o.withOperands idx imm) (wordXI o.baseWord idx imm)) ∧
      RejectsOthers o.code.toNat (fun w => ∃ idx imm, w = wordXI o.baseWord idx imm) := by
  refine ⟨fun idx imm => ?_,
    rejectsOthers_of_assembleFields fun idx imm _ _ => ⟨idx, imm, assembleFields_eq_wordXI o idx imm⟩⟩
  rw [← assembleFields_eq_wordXI]
  exact encodedAs_assembleFields (by rw [h]; rfl) (Op.wellFormed_withOperands hldv idx imm)

end Sys2Proof

namespace Sys2Proof.Machine

/-! ### Replies and values -/

/-- A response is the one reply from the state it is given in. -/
theorem State.replies_give (s : State) (c : Code) (d : Word) : Replies s (s.give c d) c d := ⟨rfl, rfl⟩

theorem State.sameBlock_give (s : State) (c : Code) (d : Word) : (s.give c d).sameBlock s :=
  ⟨rfl, rfl, rfl, rfl, rfl⟩

/-- The pattern of a result register is the register's contents. -/
theorem tc32_toInt (x : Result) : tc32 x.toInt = x := BitVec.ofInt_toInt

/-- An integer that fits 32 bits comes back whole from its pattern. -/
theorem toInt_toResult {x : Int} (hlo : -2 ^ 31 ≤ x) (hhi : x < 2 ^ 31) : (toResult x).toInt = x := by
  rw [toResult, BitVec.toInt_ofInt]
  exact Int.bmod_eq_of_le (by omega) (by omega)

/-- A 16-bit entry comes back whole from its 32-bit pattern. -/
theorem tc32_entry_toInt (x : Entry) : (tc32 x.toInt).toInt = x.toInt := by
  have hlo := BitVec.le_toInt x
  have hhi := BitVec.toInt_lt (x := x)
  exact toInt_toResult (by omega) (by omega)

/-- Sign extension keeps the integer (30_encoding.md R55). -/
theorem immResult_toInt (imm : BitVec 16) : (immResult imm).toInt = imm.toInt :=
  BitVec.toInt_signExtend_of_le (by decide)

/-! ### What each command does -/

/-- Settles O10: NOP gives its response and nothing else. -/
theorem nopChangesNothing : Obligations.NopChangesNothing := by
  obtain ⟨hword, hothers⟩ := words_formatZ (o := .nop) rfl
  exact ⟨hword, hothers, fun s => ⟨s.give 0 0, rfl, s.replies_give 0 0, s.sameBlock_give 0 0⟩⟩

/-- Settles O11: the register written is read back, the others and the rest of the block are framed. -/
theorem ldmLoadsOneMatrixEntry : Obligations.LdmLoadsOneMatrixEntry := by
  obtain ⟨hword, hothers⟩ := words_formatXI (o := .ldm) rfl (by decide)
  refine ⟨hword, hothers, fun s i imm => ⟨(s.writeM i imm).give 0 0, rfl, ⟨rfl, rfl⟩, ?_, fun j hj => ?_, rfl, rfl,
    rfl, rfl⟩⟩
  · rw [State.give_m, State.writeM_m, Quad.get_set_self]; rfl
  · rw [State.give_m, State.writeM_m, Quad.get_set_of_ne _ _ hj]

theorem exec_rdr_of_set {s : State} {i : Fin 4} {x : Result} (h : s.r.get i = some x) :
    exec (.rdr i) s = .next (s.give 0 x) := by
  simp only [exec, execRdr, State.readR, h, respond, tc32_toInt]

theorem exec_rdr_of_unset {s : State} {i : Fin 4} (h : s.r.get i = none) :
    exec (.rdr i) s = raiseError .emptyOrUnsetState s := by
  simp only [exec, execRdr, State.readR, h]

/-- Settles O14: a set register's pattern is its contents; an unset one is the command's one error. -/
theorem rdrReadsOneResult : Obligations.RdrReadsOneResult := by
  obtain ⟨hword, hothers⟩ := words_formatX (o := .rdr) rfl
  refine ⟨hword, hothers, fun s i => ⟨fun x hset => ?_, fun hunset => ?_⟩⟩
  · exact ⟨_, x, exec_rdr_of_set hset, s.replies_give 0 x, rfl, s.sameBlock_give 0 x⟩
  · rw [exec_rdr_of_unset hunset]
    exact raises_raiseError _ s

theorem exec_rdk_of_key {s : State} {q : Quad Entry} (h : s.k = some q) (i : Fin 4) :
    exec (.rdk i) s = .next (s.give 0 (tc32 (q.get i).toInt)) := by
  simp only [exec, execRdk, State.readK, h, respond]

theorem exec_rdk_of_no_key {s : State} (h : s.k = none) (i : Fin 4) :
    exec (.rdk i) s = raiseError .emptyOrUnsetState s := by
  simp only [exec, execRdk, State.readK, h]

/-- Settles O15: the key's entry is answered sign-extended; with no key there is the command's one error. -/
theorem rdkReadsOneKeyEntry : Obligations.RdkReadsOneKeyEntry := by
  obtain ⟨hword, hothers⟩ := words_formatX (o := .rdk) rfl
  refine ⟨hword, hothers, fun s i => ⟨fun q hkey => ?_, fun hnone => ?_⟩⟩
  · exact ⟨_, _, exec_rdk_of_key hkey i, s.replies_give 0 _, tc32_entry_toInt _, s.sameBlock_give 0 _⟩
  · rw [exec_rdk_of_no_key hnone]
    exact raises_raiseError _ s

/-- Settles O17: the response is STATUS, whose bits `statusLayout` gives. -/
theorem rdsReadsStatus : Obligations.RdsReadsStatus := by
  obtain ⟨hword, hothers⟩ := words_formatZ (o := .rds) rfl
  exact ⟨hword, hothers, fun s =>
    ⟨s.give 0 s.status, s.status, rfl, s.replies_give 0 _, statusLayout s, s.sameBlock_give 0 _⟩⟩

theorem State.get_clearErrors_ef (s : State) (e : ErrorKind) : s.clearErrors.ef.get e = false := by
  cases e <;> rfl

/-- Settles O18: CLRE's one update is to EF. -/
theorem clreClearsTheErrorFlags : Obligations.ClreClearsTheErrorFlags := by
  obtain ⟨hword, hothers⟩ := words_formatZ (o := .clre) rfl
  exact ⟨hword, hothers, fun s =>
    ⟨s.clearErrors.give 0 0, rfl, ⟨rfl, rfl⟩, s.get_clearErrors_ef, rfl, rfl, rfl, rfl⟩⟩

/-- Settles O19: SRST leaves the reset block, so R33's table holds, and the STATUS the next RDS answers is the last
line of that table. -/
theorem srstResetsTheBlock : Obligations.SrstResetsTheBlock := by
  obtain ⟨hword, hothers⟩ := words_formatZ (o := .srst) rfl
  refine ⟨hword, hothers, fun s => ?_⟩
  obtain ⟨hregs, hv, hk, hef, hstatus⟩ :=
    State.unconfigured_reset_onPorts s.inputs (s.responses ++ [⟨0, 0⟩])
  refine ⟨_, _, exec_srst s, ⟨rfl, rfl⟩, hregs, hv, hk, hef, rfl, ?_⟩
  rw [hstatus]
  exact State.replies_give _ 0 0

end Sys2Proof.Machine


/-! PROOF. LDR, and where wide values in R come from (40_control.md R70). Apart from DET, ADJ and MULV a command puts
into R an immediate of 16 bits or the result of `reduce` or `modInverse`, all of which 16 bits hold. -/

namespace Sys2Proof.Machine

/-! ### Results of the arithmetic units that fit 16 bits -/

/-- `reduce` is the Euclidean remainder (41_modular_arithmetic.md R81). -/
theorem reduce_eq_emod (x : Int) : reduce x = x % 26 := by
  by_cases hx : 0 ≤ x
  · have htmod : x.tmod 26 = x % 26 := Int.tmod_eq_emod_of_nonneg hx
    simp only [reduce, tmod26, Config.modulus, htmod]
    split_ifs
    · omega
    · rfl
  · have htmod : x.tmod 26 = -(-x % 26) := by
      rw [← Int.tmod_eq_emod_of_nonneg (show 0 ≤ -x by omega), Int.neg_tmod, neg_neg]
    simp only [reduce, tmod26, Config.modulus, htmod, hx, if_false]
    split_ifs <;> omega

theorem reduce_bounds (x : Int) : 0 ≤ reduce x ∧ reduce x ≤ 25 := by
  rw [reduce_eq_emod]
  omega

/-- `modInverse` answers with one of its candidates (R82). -/
theorem modInverse_bounds {a b : Int} (h : modInverse a = some b) : 1 ≤ b ∧ b ≤ 25 := by
  have hall : ∀ c ∈ inverseCandidates, 1 ≤ c ∧ c ≤ 25 := by decide
  exact hall b (List.mem_of_find?_eq_some h)

/-- A result whose integer fits 16 bits. -/
def Narrow (x : Result) : Prop := -32768 ≤ x.toInt ∧ x.toInt ≤ 32767

theorem narrow_toResult {x : Int} (hlo : -32768 ≤ x) (hhi : x ≤ 32767) : Narrow (toResult x) := by
  rw [Narrow, toInt_toResult (by omega) (by omega)]
  exact ⟨hlo, hhi⟩

theorem narrow_immResult (imm : BitVec 16) : Narrow (immResult imm) := by
  have hlo := BitVec.le_toInt imm
  have hhi := BitVec.toInt_lt (x := imm)
  rw [Narrow, immResult_toInt]
  omega

theorem narrow_reduce (x : Int) : Narrow (toResult (reduce x)) := by
  obtain ⟨hlo, hhi⟩ := reduce_bounds x
  exact narrow_toResult (by omega) (by omega)

theorem narrow_modInverse {a b : Int} (h : modInverse a = some b) : Narrow (toResult b) := by
  obtain ⟨hlo, hhi⟩ := modInverse_bounds h
  exact narrow_toResult (by omega) (by omega)

theorem narrow_inverseKeyMod {q n : Quad Int} (h : inverseKeyMod q = some n) (j : Fin 4) :
    Narrow ((n.map toResult).get j) := by
  unfold inverseKeyMod at h
  split at h
  · cases h
  · cases h
    rw [Quad.get_map, Quad.get_map]
    exact narrow_reduce _

/-! ### What a command leaves in R -/

/-- Every value in R after `t` was there in `s` or fits 16 bits. -/
def KeptOrNarrow (s t : State) : Prop := ∀ j x, t.r.get j = some x → s.r.get j = some x ∨ Narrow x

theorem KeptOrNarrow.of_r_eq {s t : State} (h : t.r = s.r) : KeptOrNarrow s t := fun _ _ hx => .inl (h ▸ hx)

theorem KeptOrNarrow.writeR (s : State) (i : Fin 4) {y : Result} (hy : Narrow y) : KeptOrNarrow s (s.writeR i y) := by
  intro j x hx
  rw [State.writeR_r] at hx
  by_cases hj : j = i
  · subst hj
    rw [Quad.get_set_self] at hx
    cases hx
    exact .inr hy
  · rw [Quad.get_set_of_ne _ _ hj] at hx
    exact .inl hx

theorem KeptOrNarrow.writeRAll (s : State) {q : Quad Result} (hq : ∀ j, Narrow (q.get j)) :
    KeptOrNarrow s (s.writeRAll q) := by
  intro j x hx
  rw [State.writeRAll_r, Quad.get_map] at hx
  cases hx
  exact .inr (hq j)

theorem KeptOrNarrow.writeRLow (s : State) {p : Pair Result} (h0 : Narrow p.e0) (h1 : Narrow p.e1) :
    KeptOrNarrow s (s.writeRLow p) := by
  intro j x hx
  match j with
  | 0 => cases hx; exact .inr h0
  | 1 => cases hx; exact .inr h1
  | 2 | 3 => exact .inl hx

theorem KeptOrNarrow.resetBlock (s : State) : KeptOrNarrow s s.resetBlock := by
  intro j x hx
  match j with
  | 0 | 1 | 2 | 3 => cases hx

/-- The state an answer goes on to has in R what was there in `s` and values of 16 bits. -/
def AnswersKeptOrNarrow (s : State) (a : Answer) : Prop := ∀ t, a = .next t → KeptOrNarrow s t

theorem AnswersKeptOrNarrow.respond {s u : State} {d : Word} (h : KeptOrNarrow s u) :
    AnswersKeptOrNarrow s (respond d u) := by
  intro t ht
  rw [respond_eq_next ht]
  exact h

theorem AnswersKeptOrNarrow.raiseError {s u : State} {e : ErrorKind} (h : u.r = s.r) :
    AnswersKeptOrNarrow s (raiseError e u) := by
  intro t ht
  obtain ⟨-, -, -, hr, -⟩ := raiseError_eq_next ht
  exact .of_r_eq (hr.trans h)

/-- Values outside 16 bits reach R only from DET, ADJ and MULV. -/
theorem exec_keptOrNarrow (c : Instr) (s : State) (hdet : c ≠ .det) (hadj : c ≠ .adj) (hmulv : c ≠ .mulv) :
    AnswersKeptOrNarrow s (exec c s) := by
  cases c with
  | det | adj | mulv => contradiction
  | nop | ldm | rds | clre => exact .respond (.of_r_eq rfl)
  | srst => exact .respond (.resetBlock s)
  | ldr i imm => exact .respond (.writeR s i (narrow_immResult imm))
  | ldv i imm =>
    simp only [exec, execLdv]
    split_ifs
    · exact .respond (.of_r_eq rfl)
    · exact .raiseError rfl
    · exact .raiseError rfl
  | rdr | rdk | kchk =>
    simp only [exec, execRdr, execRdk, execKchk]
    split
    · exact .raiseError rfl
    · exact .respond (.of_r_eq rfl)
  | red i =>
    simp only [exec, execRed]
    split
    · exact .raiseError rfl
    · exact .respond (.writeR s i (narrow_reduce _))
  | minv i =>
    simp only [exec, execMinv]
    split
    · exact .raiseError rfl
    · split
      · exact .raiseError rfl
      · next hb => exact .respond (.writeR s i (narrow_modInverse hb))
  | invm =>
    simp only [exec, execInvm]
    split
    · exact .raiseError rfl
    · split
      · exact .raiseError rfl
      · next hn => exact .respond (.writeRAll s (narrow_inverseKeyMod hn))
  | setkey =>
    simp only [exec, execSetkey]
    split
    · exact .raiseError rfl
    · split_ifs
      · exact .respond (.of_r_eq rfl)
      · exact .raiseError rfl
  | invkey =>
    simp only [exec, execInvkey]
    split
    · exact .raiseError rfl
    · split
      · exact .raiseError rfl
      · exact .respond (.of_r_eq rfl)
  | mulvr =>
    simp only [exec, execMulvr]
    split
    · exact .respond (.writeRLow s (narrow_reduce _) (narrow_reduce _))
    · exact .raiseError rfl

/-- Settles O13: LDR's own write is like LDM's; a wide value in R was kept unless the command is one of the three. -/
theorem ldrLoadsOneResult : Obligations.LdrLoadsOneResult := by
  obtain ⟨hword, hothers⟩ := words_formatXI (o := .ldr) rfl (by decide)
  refine ⟨hword, hothers, fun s i imm => ?_, fun c s t j x hexec hx hwide => ?_⟩
  · refine ⟨(s.writeR i (immResult imm)).give 0 0, rfl, ⟨rfl, rfl⟩, ?_, fun j hj => ?_, rfl, rfl, rfl, rfl⟩
    · rw [State.give_r, State.writeR_r, Quad.get_set_self, ← immResult_toInt]; rfl
    · rw [State.give_r, State.writeR_r, Quad.get_set_of_ne _ _ hj]
  · by_contra hnot
    simp only [not_or] at hnot
    obtain ⟨hnew, hdet, hadj, hmulv⟩ := hnot
    obtain hkept | ⟨hlo, hhi⟩ := exec_keptOrNarrow c s hdet hadj hmulv t hexec j x hx
    · exact hnew hkept
    · omega

end Sys2Proof.Machine


/-! PROOF. Modular arithmetic (41_modular_arithmetic.md R81 to R85). `reduce` is the representative in 0..25 of a
number modulo 26, so two numbers reduce alike exactly when they are congruent; what R81 to R83 say of `reduce` and
`modInverse` is then said of congruences. RED and MINV write these values, which fit a result register. -/

namespace Sys2Proof.Machine

/-! ### `reduce` and congruence modulo 26 -/

theorem reduce_eq_reduce_iff {x y : Int} : reduce x = reduce y ↔ x ≡ y [ZMOD 26] := by
  rw [reduce_eq_emod, reduce_eq_emod, Int.ModEq]

theorem reduce_modEq (x : Int) : reduce x ≡ x [ZMOD 26] := by
  rw [reduce_eq_emod]
  exact Int.mod_modEq x 26

theorem reduce_of_bounds {x : Int} (hlo : 0 ≤ x) (hhi : x ≤ 25) : reduce x = x := by
  rw [reduce_eq_emod]
  exact Int.emod_eq_of_lt hlo (by omega)

theorem reduce_eq_one_iff {x : Int} : reduce x = 1 ↔ x ≡ 1 [ZMOD 26] := by
  rw [← reduce_eq_reduce_iff, reduce_of_bounds (x := 1) (by decide) (by decide)]

/-- Settles O20: (a) to (c) say that `reduce` is the Euclidean remainder, (d) to (f) that a number may be replaced by
a congruent one. -/
theorem reduceIsTheEuclideanRemainder : Obligations.ReduceIsTheEuclideanRemainder := by
  intro x y k
  refine ⟨reduce_bounds x, reduce_eq_emod x, fun ⟨hlo, hhi⟩ => reduce_of_bounds hlo hhi, ?_, ?_, ?_, ?_⟩
  · exact reduce_eq_reduce_iff.2 (reduce_modEq x)
  · exact reduce_eq_reduce_iff.2 Int.modEq_add_fac_self
  · exact reduce_eq_reduce_iff.2 ((reduce_modEq x).add (reduce_modEq y)).symm
  · exact reduce_eq_reduce_iff.2 ((reduce_modEq x).mul (reduce_modEq y)).symm

/-! ### Inverses modulo 26 -/

/-- Two inverses of one number are congruent: b ≡ (a · c) · b = (a · b) · c ≡ c. -/
theorem modEq_of_inverses {a b c : Int} (hb : a * b ≡ 1 [ZMOD 26]) (hc : a * c ≡ 1 [ZMOD 26]) :
    b ≡ c [ZMOD 26] := by
  have hleft : a * c * b ≡ b [ZMOD 26] := by simpa using hc.mul_right b
  have hright : a * b * c ≡ c [ZMOD 26] := by simpa using hb.mul_right c
  rw [mul_right_comm] at hleft
  exact hleft.symm.trans hright

/-- An inverse is not congruent to 0, so its representative is one of R82's candidates. -/
theorem reduce_bounds_of_inverse {a b : Int} (h : a * b ≡ 1 [ZMOD 26]) : 1 ≤ reduce b ∧ reduce b ≤ 25 := by
  obtain ⟨hlo, hhi⟩ := reduce_bounds b
  have hne : reduce b ≠ 0 := by
    intro hzero
    have hproduct := (reduce_modEq b).mul_left a
    rw [hzero, mul_zero] at hproduct
    exact absurd (hproduct.trans h) (by decide)
  omega

/-- A number has an inverse modulo 26 exactly when it is coprime to 26 (Bézout). -/
theorem exists_inverse_iff_gcd_eq_one (a : Int) : (∃ b, a * b ≡ 1 [ZMOD 26]) ↔ Int.gcd a 26 = 1 := by
  rw [← Int.isCoprime_iff_gcd_eq_one]
  constructor
  · rintro ⟨b, hb⟩
    obtain ⟨t, ht⟩ := Int.modEq_iff_add_fac.1 hb
    exact ⟨b, t, by rw [ht]; ring⟩
  · rintro ⟨u, v, huv⟩
    exact ⟨u, Int.modEq_iff_add_fac.2 ⟨v, by rw [← huv]; ring⟩⟩

theorem gcd_twentySix_eq_one_iff (a : Int) : Int.gcd a 26 = 1 ↔ ¬ (2 : Int) ∣ a ∧ ¬ (13 : Int) ∣ a := by
  have htwo : Prime (2 : Int) := Int.prime_two
  have hthirteen : Prime (13 : Int) := Nat.prime_iff_prime_int.1 (by norm_num)
  rw [← Int.isCoprime_iff_gcd_eq_one, show (26 : Int) = 2 * 13 by decide, IsCoprime.mul_right_iff,
    isCoprime_comm, htwo.coprime_iff_not_dvd, isCoprime_comm, hthirteen.coprime_iff_not_dvd]

/-! ### `modInverse` -/

theorem mem_inverseCandidates {b : Int} (hlo : 1 ≤ b) (hhi : b ≤ 25) : b ∈ inverseCandidates :=
  List.mem_map.2 ⟨b.toNat, List.mem_range'_1.2 (by omega), Int.toNat_of_nonneg (by omega)⟩

/-- The search stops at inverses only (R82). -/
theorem modEq_one_of_modInverse {a b : Int} (h : modInverse a = some b) : a * b ≡ 1 [ZMOD 26] := by
  have hfound := List.find?_some h
  exact reduce_eq_one_iff.1 (of_decide_eq_true hfound)

/-- The search answers with the one candidate that is an inverse (R82). -/
theorem modInverse_eq_some_iff {a b : Int} :
    modInverse a = some b ↔ 1 ≤ b ∧ b ≤ 25 ∧ a * b ≡ 1 [ZMOD 26] := by
  constructor
  · intro h
    obtain ⟨hlo, hhi⟩ := modInverse_bounds h
    exact ⟨hlo, hhi, modEq_one_of_modInverse h⟩
  · rintro ⟨hlo, hhi, hinv⟩
    have hsome : (modInverse a).isSome := List.find?_isSome.2
      ⟨b, mem_inverseCandidates hlo hhi, decide_eq_true (reduce_eq_one_iff.2 hinv)⟩
    obtain ⟨c, hc⟩ := Option.isSome_iff_exists.1 hsome
    obtain ⟨hclo, hchi⟩ := modInverse_bounds hc
    have hreduce := reduce_eq_reduce_iff.2 (modEq_of_inverses (modEq_one_of_modInverse hc) hinv)
    rw [reduce_of_bounds (by omega) hchi, reduce_of_bounds (by omega) hhi] at hreduce
    rw [hc, hreduce]

/-- The representative of any inverse is what `modInverse` answers. -/
theorem modInverse_eq_reduce {a b : Int} (h : a * b ≡ 1 [ZMOD 26]) : modInverse a = some (reduce b) := by
  obtain ⟨hlo, hhi⟩ := reduce_bounds_of_inverse h
  exact modInverse_eq_some_iff.2 ⟨hlo, hhi, ((reduce_modEq b).mul_left a).trans h⟩

theorem exists_modInverse_iff_gcd_eq_one (a : Int) : (∃ b, modInverse a = some b) ↔ Int.gcd a 26 = 1 := by
  rw [← exists_inverse_iff_gcd_eq_one]
  constructor
  · rintro ⟨b, hb⟩
    exact ⟨b, modEq_one_of_modInverse hb⟩
  · rintro ⟨b, hinv⟩
    exact ⟨reduce b, modInverse_eq_reduce hinv⟩

theorem modInverse_eq_none_iff_gcd_ne_one (a : Int) : modInverse a = none ↔ Int.gcd a 26 ≠ 1 := by
  rw [ne_eq, ← exists_modInverse_iff_gcd_eq_one, ← Option.isSome_iff_exists, Option.not_isSome_iff_eq_none]

/-- A number and its reduction have the same inverses. -/
theorem modInverse_reduce (a : Int) : modInverse (reduce a) = modInverse a := by
  refine Option.ext fun b => ?_
  have hproduct : reduce a * b ≡ a * b [ZMOD 26] := (reduce_modEq a).mul_right b
  rw [modInverse_eq_some_iff, modInverse_eq_some_iff]
  exact and_congr_right' (and_congr_right' ⟨hproduct.symm.trans, hproduct.trans⟩)

/-- Settles O21: `modInverse` answers with the candidate that is an inverse, which Bézout gives for numbers coprime to
26. -/
theorem modInverseIsTheOneInverse : Obligations.ModInverseIsTheOneInverse := by
  intro a
  refine ⟨fun b => ?_, exists_modInverse_iff_gcd_eq_one a, gcd_twentySix_eq_one_iff a, (modInverse_reduce a).symm⟩
  rw [reduce_eq_one_iff]
  exact modInverse_eq_some_iff

/-- Settles O22: the table needs its 26 rows only, as `modInverse a` is that of the reduced number; and a number is an
inverse of its inverse. -/
theorem modInverseTable : Obligations.ModInverseTable := by
  intro a
  constructor
  · obtain ⟨hlo, hhi⟩ := reduce_bounds a
    rw [← modInverse_reduce]
    generalize reduce a = r at hlo hhi
    interval_cases r <;> rfl
  · intro b hb
    exact modInverse_eq_reduce (mul_comm a b ▸ modEq_one_of_modInverse hb)

/-! ### RED and MINV -/

/-- `t` is `s` after a success that answers (0, 0) and leaves the integer `y` in R[i]; nothing else changes. -/
def SetsResult (s : State) (i : Fin 4) (y : Int) (t : State) : Prop :=
  Replies s t 0 0 ∧ intOf (t.r.get i) = some y ∧ (∀ j, j ≠ i → t.r.get j = s.r.get j) ∧
    t.m = s.m ∧ t.v = s.v ∧ t.k = s.k ∧ t.ef = s.ef

/-- An integer that fits 32 bits is left in R[i] whole. -/
theorem setsResult_writeR (s : State) (i : Fin 4) {y : Int} (hlo : -2 ^ 31 ≤ y) (hhi : y < 2 ^ 31) :
    SetsResult s i y ((s.writeR i (toResult y)).give 0 0) := by
  refine ⟨⟨rfl, rfl⟩, ?_, fun j hj => ?_, rfl, rfl, rfl, rfl⟩
  · rw [State.give_r, State.writeR_r, Quad.get_set_self, intOf, Option.map_some, toInt_toResult hlo hhi]
  · rw [State.give_r, State.writeR_r, Quad.get_set_of_ne _ _ hj]

section
variable {s : State} {i : Fin 4}

theorem exec_red_of_set {x : Result} (h : s.r.get i = some x) :
    exec (.red i) s = .next ((s.writeR i (toResult (reduce x.toInt))).give 0 0) := by
  simp only [exec, execRed, State.readR, h, respond]

theorem exec_red_of_unset (h : s.r.get i = none) : exec (.red i) s = raiseError .emptyOrUnsetState s := by
  simp only [exec, execRed, State.readR, h]

theorem exec_minv_of_inverse {x : Result} {b : Int} (h : s.r.get i = some x) (hb : modInverse x.toInt = some b) :
    exec (.minv i) s = .next ((s.writeR i (toResult b)).give 0 0) := by
  simp only [exec, execMinv, State.readR, h, hb, respond]

theorem exec_minv_of_no_inverse {x : Result} (h : s.r.get i = some x) (hnone : modInverse x.toInt = none) :
    exec (.minv i) s = raiseError .noInverse s := by
  simp only [exec, execMinv, State.readR, h, hnone]

theorem exec_minv_of_unset (h : s.r.get i = none) : exec (.minv i) s = raiseError .emptyOrUnsetState s := by
  simp only [exec, execMinv, State.readR, h]

end

/-- Settles O23: the remainder RED writes fits the register; an unset register is the command's one error. -/
theorem redReducesInPlace : Obligations.RedReducesInPlace := by
  obtain ⟨hword, hothers⟩ := words_formatX (o := .red) rfl
  refine ⟨hword, hothers, fun s i => ⟨fun x hset => ?_, fun hunset => ?_⟩⟩
  · obtain ⟨hlo, hhi⟩ := reduce_bounds x.toInt
    refine ⟨_, exec_red_of_set hset, ?_⟩
    rw [← reduce_eq_emod]
    exact setsResult_writeR s i (by omega) (by omega)
  · rw [exec_red_of_unset hunset]
    exact raises_raiseError _ s

/-- Settles O24: whether the operand is coprime to 26 decides whether `modInverse` finds the value to write; a number it
does not find leaves the error as the only effect. -/
theorem minvInvertsInPlace : Obligations.MinvInvertsInPlace := by
  obtain ⟨hword, hothers⟩ := words_formatX (o := .minv) rfl
  refine ⟨hword, hothers, fun s i => ⟨fun x hset hgcd => ?_, fun x hset hgcd => ?_, fun hunset => ?_⟩⟩
  · obtain ⟨b, hb⟩ := (exists_modInverse_iff_gcd_eq_one x.toInt).2 hgcd
    obtain ⟨hlo, hhi, hinv⟩ := modInverse_eq_some_iff.1 hb
    obtain ⟨hreplies, hvalue, hframe⟩ := setsResult_writeR s i (y := b) (by omega) (by omega)
    exact ⟨_, b, exec_minv_of_inverse hset hb, hreplies, hvalue, hlo, hhi, hinv, hframe⟩
  · rw [exec_minv_of_no_inverse hset ((modInverse_eq_none_iff_gcd_ne_one x.toInt).2 hgcd)]
    exact raises_raiseError _ s
  · rw [exec_minv_of_unset hunset]
    exact raises_raiseError _ s

end Sys2Proof.Machine


/-! PROOF. The matrix functions (42_matrix_ops.md R92, R93, R96, R97). What 16-bit entries bound is said of one product
and one adjugate entry. `inverseKeyMod` is the adjugate scaled by the inverse of the determinant and then reduced, and
reducing the entries of a factor changes neither a product modulo 26 nor an inverse, so R97 is the adjugate's law
m · adj m = D times the identity, scaled. -/

namespace Sys2Proof.Machine

/-! ### Bounds for 16-bit entries -/

theorem entry_bounds (x : Entry) : -32768 ≤ x.toInt ∧ x.toInt ≤ 32767 := by
  have hlo := BitVec.le_toInt x
  have hhi := BitVec.toInt_lt (x := x)
  omega

/-- A product is extreme at the corners of the square its factors lie in: each of the four products of distances to a
side is not negative, and two of them together give a bound. -/
theorem entry_mul_bounds (x y : Entry) :
    -1073709056 ≤ x.toInt * y.toInt ∧ x.toInt * y.toInt ≤ 1073741824 := by
  obtain ⟨hxlo, hxhi⟩ := entry_bounds x
  obtain ⟨hylo, hyhi⟩ := entry_bounds y
  generalize x.toInt = a at *
  generalize y.toInt = b at *
  have hll : 0 ≤ (a + 32768) * (b + 32768) := mul_nonneg (by omega) (by omega)
  have hhh : 0 ≤ (32767 - a) * (32767 - b) := mul_nonneg (by omega) (by omega)
  have hlh : 0 ≤ (a + 32768) * (32767 - b) := mul_nonneg (by omega) (by omega)
  have hhl : 0 ≤ (32767 - a) * (b + 32768) := mul_nonneg (by omega) (by omega)
  constructor
  · linarith only [hll, hhh]
  · linarith only [hlh, hhl, hxlo, hylo]

theorem determinant2x2_matrixOf (q : Quad Entry) :
    determinant2x2 (matrixOf q) = q.e0.toInt * q.e3.toInt - q.e1.toInt * q.e2.toInt := rfl

theorem detOf_eq (q : Quad Entry) : detOf q = determinant2x2 (matrixOf q) := rfl

theorem determinant_bounds (q : Quad Entry) :
    -2147450880 ≤ determinant2x2 (matrixOf q) ∧ determinant2x2 (matrixOf q) ≤ 2147450880 := by
  obtain ⟨hadlo, hadhi⟩ := entry_mul_bounds q.e0 q.e3
  obtain ⟨hbclo, hbchi⟩ := entry_mul_bounds q.e1 q.e2
  rw [determinant2x2_matrixOf]
  omega

/-- Settles O25: the bounds of the two products give the determinant's, and these fit 32 bits; R92's two matrices reach
the ends. -/
theorem determinantFitsThirtyTwoBits : Obligations.DeterminantFitsThirtyTwoBits := by
  refine ⟨fun q => ?_, by decide, by decide⟩
  obtain ⟨hlo, hhi⟩ := determinant_bounds q
  exact ⟨hlo, hhi, toInt_toResult (by omega) (by omega)⟩

/-- The adjugate permutes and negates entries, and -(-32768) = 32768 is the one value it can add to 16 bits. -/
theorem adjugate_bounds (q : Quad Entry) (j : Fin 4) :
    -32768 ≤ (adjugate (matrixOf q)).get j ∧ (adjugate (matrixOf q)).get j ≤ 32768 := by
  have hneg (x : Entry) : -32768 ≤ -x.toInt ∧ -x.toInt ≤ 32768 := by have := entry_bounds x; omega
  have hpos (x : Entry) : -32768 ≤ x.toInt ∧ x.toInt ≤ 32768 := by have := entry_bounds x; omega
  match j with
  | 0 => exact hpos q.e3
  | 1 => exact hneg q.e1
  | 2 => exact hneg q.e2
  | 3 => exact hpos q.e0

/-! ### Valid keys -/

theorem isValidKey_eq_true_iff (q : Quad Int) :
    isValidKey q = true ↔ determinant2x2 q ≠ 0 ∧ |determinant2x2 q - 26| ≠ 1 := by
  rw [isValidKey, Bool.and_eq_true, bne_iff_ne, bne_iff_ne, Int.abs_eq_natAbs]
  exact and_congr_right' (not_congr Nat.cast_eq_one.symm)

/-- |D − 26| = 1 is D = 25 or D = 27. -/
theorem isValidKey_eq_false_iff (q : Quad Int) :
    isValidKey q = false ↔ determinant2x2 q = 0 ∨ determinant2x2 q = 25 ∨ determinant2x2 q = 27 := by
  rw [← Bool.not_eq_true, isValidKey_eq_true_iff, Int.abs_eq_natAbs]
  omega

/-- Settles O26: both readings of R93. -/
theorem keyInvalidOnlyForThreeDeterminants : Obligations.KeyInvalidOnlyForThreeDeterminants :=
  fun q => ⟨isValidKey_eq_true_iff q, isValidKey_eq_false_iff q⟩

/-! ### `inverseKeyMod` -/

/-- The adjugate with every entry times `i`, not reduced. -/
def scaledAdjugate (q : Quad Int) (i : Int) : Quad Int := (adjugate q).map (· * i)

theorem inverseKeyMod_of_modInverse {q : Quad Int} {i : Int} (h : modInverse (determinant2x2 q) = some i) :
    inverseKeyMod q = some ((scaledAdjugate q i).map reduce) := by
  rw [inverseKeyMod, h]; rfl

theorem inverseKeyMod_of_no_modInverse {q : Quad Int} (h : modInverse (determinant2x2 q) = none) :
    inverseKeyMod q = none := by
  rw [inverseKeyMod, h]

theorem inverseKeyMod_eq_none_iff (q : Quad Int) :
    inverseKeyMod q = none ↔ Int.gcd (determinant2x2 q) 26 ≠ 1 := by
  rw [← modInverse_eq_none_iff_gcd_ne_one]
  cases h : modInverse (determinant2x2 q) with
  | none => simp [inverseKeyMod_of_no_modInverse h]
  | some i => simp [inverseKeyMod_of_modInverse h]

/-- What is known of a result: the determinant had an inverse, which scaled the adjugate. -/
theorem exists_modInverse_of_inverseKeyMod {q n : Quad Int} (h : inverseKeyMod q = some n) :
    ∃ i, modInverse (determinant2x2 q) = some i ∧ n = (scaledAdjugate q i).map reduce := by
  cases hi : modInverse (determinant2x2 q) with
  | none => rw [inverseKeyMod_of_no_modInverse hi] at h; cases h
  | some i => rw [inverseKeyMod_of_modInverse hi] at h; cases h; exact ⟨i, rfl, rfl⟩

theorem inverseKeyMod_bounds {q n : Quad Int} (h : inverseKeyMod q = some n) (j : Fin 4) :
    0 ≤ n.get j ∧ n.get j ≤ 25 := by
  obtain ⟨i, -, rfl⟩ := exists_modInverse_of_inverseKeyMod h
  rw [Quad.get_map]
  exact reduce_bounds _

/-- Settles O29: a product's magnitude is at most 32768 · 25. -/
theorem inverseKeyIsScaledAdjugate : Obligations.InverseKeyIsScaledAdjugate := by
  refine fun m => ⟨fun i hi => inverseKeyMod_of_modInverse hi, inverseKeyMod_eq_none_iff m,
    fun n j hn => inverseKeyMod_bounds hn j, fun q i j hi => ?_⟩
  obtain ⟨hlo, hhi⟩ := modInverse_bounds hi
  have hentry : |(adjugate (matrixOf q)).get j| ≤ 32768 := abs_le.2 (adjugate_bounds q j)
  have hinverse : |i| ≤ 25 := abs_le.2 ⟨by omega, hhi⟩
  calc |(adjugate (matrixOf q)).get j * i|
      = |(adjugate (matrixOf q)).get j| * |i| := abs_mul _ _
    _ ≤ 32768 * 25 := mul_le_mul hentry hinverse (abs_nonneg i) (by decide)
    _ = 819200 := by decide

/-! ### The adjugate's law -/

theorem mulvec_adjugate (q : Quad Int) :
    mulvec q ⟨(adjugate q).e0, (adjugate q).e2⟩ = ⟨determinant2x2 q, 0⟩ ∧
      mulvec q ⟨(adjugate q).e1, (adjugate q).e3⟩ = ⟨0, determinant2x2 q⟩ := by
  simp only [mulvec, adjugate, determinant2x2, Pair.mk.injEq]
  refine ⟨⟨?_, ?_⟩, ?_, ?_⟩ <;> ring

theorem adjugate_mulvec (q : Quad Int) :
    mulvec (adjugate q) ⟨q.e0, q.e2⟩ = ⟨determinant2x2 q, 0⟩ ∧
      mulvec (adjugate q) ⟨q.e1, q.e3⟩ = ⟨0, determinant2x2 q⟩ := by
  simp only [mulvec, adjugate, determinant2x2, Pair.mk.injEq]
  refine ⟨⟨?_, ?_⟩, ?_, ?_⟩ <;> ring

theorem mulvec_scaled_column (q : Quad Int) (p : Pair Int) (i : Int) :
    mulvec q (p.map (· * i)) = (mulvec q p).map (· * i) := by
  simp only [mulvec, Pair.map, Pair.mk.injEq]
  constructor <;> ring

theorem mulvec_scaled_matrix (q : Quad Int) (p : Pair Int) (i : Int) :
    mulvec (q.map (· * i)) p = (mulvec q p).map (· * i) := by
  simp only [mulvec, Quad.map, Pair.map, Pair.mk.injEq]
  constructor <;> ring

/-! ### Reducing factors -/

/-- Reducing the column changes no product modulo 26. -/
theorem map_reduce_mulvec_column (q : Quad Int) (p : Pair Int) :
    (mulvec q (p.map reduce)).map reduce = (mulvec q p).map reduce := by
  have hrow (a b : Int) : reduce (a * reduce p.e0 + b * reduce p.e1) = reduce (a * p.e0 + b * p.e1) :=
    reduce_eq_reduce_iff.2 (((reduce_modEq p.e0).mul_left a).add ((reduce_modEq p.e1).mul_left b))
  exact Pair.ext (hrow q.e0 q.e1) (hrow q.e2 q.e3)

/-- Reducing the matrix changes no product modulo 26. -/
theorem map_reduce_mulvec_matrix (q : Quad Int) (p : Pair Int) :
    (mulvec (q.map reduce) p).map reduce = (mulvec q p).map reduce := by
  have hrow (a b : Int) : reduce (reduce a * p.e0 + reduce b * p.e1) = reduce (a * p.e0 + b * p.e1) :=
    reduce_eq_reduce_iff.2 (((reduce_modEq a).mul_right p.e0).add ((reduce_modEq b).mul_right p.e1))
  exact Pair.ext (hrow q.e0 q.e1) (hrow q.e2 q.e3)

theorem modInverse_congr {a b : Int} (h : a ≡ b [ZMOD 26]) : modInverse a = modInverse b := by
  rw [← modInverse_reduce a, reduce_eq_reduce_iff.2 h, modInverse_reduce]

theorem determinant2x2_map_reduce (q : Quad Int) : determinant2x2 (q.map reduce) ≡ determinant2x2 q [ZMOD 26] :=
  ((reduce_modEq q.e0).mul (reduce_modEq q.e3)).sub ((reduce_modEq q.e1).mul (reduce_modEq q.e2))

theorem scaledAdjugate_map_reduce (q : Quad Int) (i : Int) :
    (scaledAdjugate (q.map reduce) i).map reduce = (scaledAdjugate q i).map reduce := by
  have hpos (x : Int) : reduce (reduce x * i) = reduce (x * i) :=
    reduce_eq_reduce_iff.2 ((reduce_modEq x).mul_right i)
  have hneg (x : Int) : reduce (-reduce x * i) = reduce (-x * i) :=
    reduce_eq_reduce_iff.2 ((reduce_modEq x).neg.mul_right i)
  exact Quad.ext (hpos q.e3) (hneg q.e1) (hneg q.e2) (hpos q.e0)

/-- A matrix and its reduction have the same inverse. -/
theorem inverseKeyMod_map_reduce (q : Quad Int) : inverseKeyMod (q.map reduce) = inverseKeyMod q := by
  have hdet := modInverse_congr (determinant2x2_map_reduce q)
  cases h : modInverse (determinant2x2 q) with
  | none => rw [inverseKeyMod_of_no_modInverse h, inverseKeyMod_of_no_modInverse (hdet.trans h)]
  | some i =>
    rw [inverseKeyMod_of_modInverse h, inverseKeyMod_of_modInverse (hdet.trans h), scaledAdjugate_map_reduce]

/-! ### Inverting twice -/

theorem determinant2x2_scaledAdjugate (q : Quad Int) (i : Int) :
    determinant2x2 (scaledAdjugate q i) = determinant2x2 q * i * i := by
  simp only [determinant2x2, scaledAdjugate, adjugate, Quad.map]
  ring

theorem scaledAdjugate_scaledAdjugate (q : Quad Int) (i j : Int) :
    scaledAdjugate (scaledAdjugate q i) j = q.map (· * (i * j)) := by
  simp only [scaledAdjugate, adjugate, Quad.map, Quad.mk.injEq]
  refine ⟨?_, ?_, ?_, ?_⟩ <;> ring

/-- Scaling by a number congruent to 1 is undone by reducing. -/
theorem map_reduce_scaled {k : Int} (h : k ≡ 1 [ZMOD 26]) (q : Quad Int) :
    (q.map (· * k)).map reduce = q.map reduce := by
  have hentry (x : Int) : reduce (x * k) = reduce x := by
    rw [reduce_eq_reduce_iff]
    simpa using h.mul_left x
  exact Quad.ext (hentry _) (hentry _) (hentry _) (hentry _)

/-- With D · i ≡ 1, the determinant of the scaled adjugate is D · i · i, whose inverse is D; scaling by both leaves the
matrix. -/
theorem inverseKeyMod_scaledAdjugate {q : Quad Int} {i : Int} (h : determinant2x2 q * i ≡ 1 [ZMOD 26]) :
    inverseKeyMod (scaledAdjugate q i) = some (q.map reduce) := by
  have hdet : determinant2x2 (scaledAdjugate q i) * determinant2x2 q ≡ 1 [ZMOD 26] := by
    have hsquare : determinant2x2 q * i * (determinant2x2 q * i) ≡ 1 [ZMOD 26] := h.mul h
    rw [determinant2x2_scaledAdjugate]
    convert hsquare using 1
    ring
  have hscale : i * reduce (determinant2x2 q) ≡ 1 [ZMOD 26] := by
    have hreduce : i * reduce (determinant2x2 q) ≡ i * determinant2x2 q [ZMOD 26] := (reduce_modEq _).mul_left i
    rw [mul_comm i (determinant2x2 q)] at hreduce
    exact hreduce.trans h
  rw [inverseKeyMod_of_modInverse (modInverse_eq_reduce hdet), scaledAdjugate_scaledAdjugate,
    map_reduce_scaled hscale]

/-- Settles O30: each product is the adjugate's law scaled by the inverse of the determinant, so D · i ≡ 1 stands on
the diagonal and 0 off it. -/
theorem inverseKeyInvertsModTwentySix : Obligations.InverseKeyInvertsModTwentySix := by
  intro m n hn
  obtain ⟨i, hi, rfl⟩ := exists_modInverse_of_inverseKeyMod hn
  have hinv := modEq_one_of_modInverse hi
  have hone : reduce (determinant2x2 m * i) = 1 := reduce_eq_one_iff.2 hinv
  have hzero : reduce (0 * i) = 0 := by rw [zero_mul]; rfl
  have hfst : ((⟨determinant2x2 m, 0⟩ : Pair Int).map (· * i)).map reduce = ⟨1, 0⟩ := Pair.ext hone hzero
  have hsnd : ((⟨0, determinant2x2 m⟩ : Pair Int).map (· * i)).map reduce = ⟨0, 1⟩ := Pair.ext hzero hone
  have hcolumn (p : Pair Int) : (mulvec m ((p.map (· * i)).map reduce)).map reduce =
      ((mulvec m p).map (· * i)).map reduce := by
    rw [map_reduce_mulvec_column, mulvec_scaled_column]
  have hmatrix (p : Pair Int) : (mulvec ((scaledAdjugate m i).map reduce) p).map reduce =
      ((mulvec (adjugate m) p).map (· * i)).map reduce := by
    rw [map_reduce_mulvec_matrix, scaledAdjugate, mulvec_scaled_matrix]
  obtain ⟨hright0, hright1⟩ := mulvec_adjugate m
  obtain ⟨hleft0, hleft1⟩ := adjugate_mulvec m
  refine ⟨?_, ?_, ?_, ?_, ?_⟩
  · exact (hcolumn ⟨(adjugate m).e0, (adjugate m).e2⟩).trans (by rw [hright0, hfst])
  · exact (hcolumn ⟨(adjugate m).e1, (adjugate m).e3⟩).trans (by rw [hright1, hsnd])
  · rw [hmatrix, hleft0, hfst]
  · rw [hmatrix, hleft1, hsnd]
  · rw [inverseKeyMod_map_reduce, inverseKeyMod_scaledAdjugate hinv]

end Sys2Proof.Machine


/-! PROOF. DET, ADJ, KCHK and INVM (42_matrix_ops.md R98 to R101). Each reads all four M registers first, so an unset
one is the same error for all; on a whole matrix each writes or answers what its matrix function gives, which fits a
result register. -/

namespace Sys2Proof.Machine

/-! ### Reading M -/

theorem State.readM_of_mHolds {s : State} {q : Quad Entry} (h : s.mHolds q) : s.readM = some q :=
  (Quad.allSet_eq_some s.m q).2 h

theorem State.readM_of_someMUnset {s : State} (h : s.someMUnset) : s.readM = none :=
  (Quad.allSet_eq_none s.m).2 h

/-- The commands that work on M fail alike when a register of it is unset. -/
theorem raises_of_someMUnset {c : Instr} (hc : c ∈ [Instr.det, .adj, .kchk, .invm, .setkey]) {s : State}
    (h : s.someMUnset) : Raises (exec c s) .emptyOrUnsetState s := by
  have hread := State.readM_of_someMUnset h
  have hexec : exec c s = raiseError .emptyOrUnsetState s := by
    fin_cases hc
    · simp only [exec, execDet, hread]
    · simp only [exec, execAdj, hread]
    · simp only [exec, execKchk, hread]
    · simp only [exec, execInvm, hread]
    · simp only [exec, execSetkey, hread]
  rw [hexec]
  exact raises_raiseError _ s

section
variable {s : State} {q : Quad Entry}

theorem exec_det_of_mHolds (h : s.mHolds q) :
    exec .det s = .next ((s.writeR 0 (toResult (detOf q))).give 0 0) := by
  simp only [exec, execDet, State.readM_of_mHolds h, respond, detOf_eq]

theorem exec_adj_of_mHolds (h : s.mHolds q) :
    exec .adj s = .next ((s.writeRAll ((adjugate (matrixOf q)).map toResult)).give 0 0) := by
  simp only [exec, execAdj, State.readM_of_mHolds h, respond]

theorem exec_kchk_of_mHolds (h : s.mHolds q) :
    exec .kchk s = .next (s.give 0 (if isValidKey (matrixOf q) then 1 else 0)) := by
  simp only [exec, execKchk, State.readM_of_mHolds h, respond]

theorem exec_invm_of_inverse {n : Quad Int} (h : s.mHolds q) (hn : inverseKeyMod (matrixOf q) = some n) :
    exec .invm s = .next ((s.writeRAll (n.map toResult)).give 0 0) := by
  simp only [exec, execInvm, State.readM_of_mHolds h, hn, respond]

theorem exec_invm_of_no_inverse (h : s.mHolds q) (hnone : inverseKeyMod (matrixOf q) = none) :
    exec .invm s = raiseError .noInverse s := by
  simp only [exec, execInvm, State.readM_of_mHolds h, hnone]

end

/-! ### Writing R -/

/-- Four integers that fit 32 bits are left in R whole. -/
theorem intOf_get_writeRAll (s : State) {q : Quad Int} (h : ∀ j, -2 ^ 31 ≤ q.get j ∧ q.get j < 2 ^ 31)
    (j : Fin 4) : intOf ((s.writeRAll (q.map toResult)).r.get j) = some (q.get j) := by
  obtain ⟨hlo, hhi⟩ := h j
  rw [State.writeRAll_r, Quad.get_map, Quad.get_map, intOf, Option.map_some, toInt_toResult hlo hhi]

/-- Settles O31: the determinant fits R[0]. -/
theorem detWritesTheRawDeterminant : Obligations.DetWritesTheRawDeterminant := by
  obtain ⟨hword, hothers⟩ := words_formatZ (o := .det) rfl
  refine ⟨hword, hothers, fun s => ⟨fun q hm => ?_, raises_of_someMUnset (by decide)⟩⟩
  obtain ⟨hlo, hhi⟩ := determinant_bounds q
  rw [← detOf_eq] at hlo hhi
  exact ⟨_, exec_det_of_mHolds hm, setsResult_writeR s 0 (by omega) (by omega)⟩

/-- Settles O32: R99's four entries are the adjugate's, each of which fits its register. -/
theorem adjWritesTheAdjugate : Obligations.AdjWritesTheAdjugate := by
  obtain ⟨hword, hothers⟩ := words_formatZ (o := .adj) rfl
  refine ⟨hword, hothers, fun s => ⟨fun q hm => ?_, raises_of_someMUnset (by decide)⟩⟩
  have hentry := intOf_get_writeRAll s (q := adjugate (matrixOf q)) fun j => by
    obtain ⟨hlo, hhi⟩ := adjugate_bounds q j
    omega
  exact ⟨_, exec_adj_of_mHolds hm, ⟨rfl, rfl⟩, hentry 0, hentry 1, hentry 2, hentry 3, rfl, rfl, rfl, rfl⟩

/-- Settles O33: the answer is `isValidKey`, which refuses three determinants. -/
theorem kchkAnswersTheValidity : Obligations.KchkAnswersTheValidity := by
  obtain ⟨hword, hothers⟩ := words_formatZ (o := .kchk) rfl
  refine ⟨hword, hothers, fun s => ⟨fun q hm => ?_, raises_of_someMUnset (by decide)⟩⟩
  refine ⟨_, _, exec_kchk_of_mHolds hm, s.replies_give _ _, s.sameBlock_give _ _, fun hinvalid => ?_,
    fun hvalid => ?_⟩
  · rw [(isValidKey_eq_false_iff (matrixOf q)).2 hinvalid]
    rfl
  · have hkey : isValidKey (matrixOf q) ≠ false := by
      rw [Ne, isValidKey_eq_false_iff, ← detOf_eq]
      omega
    rw [Bool.eq_true_of_not_eq_false hkey]
    rfl

/-- Settles O34: coprimality of the determinant to 26 decides whether `inverseKeyMod` finds the entries to write. -/
theorem invmWritesTheInverse : Obligations.InvmWritesTheInverse := by
  obtain ⟨hword, hothers⟩ := words_formatZ (o := .invm) rfl
  refine ⟨hword, hothers, fun s => ⟨fun q hm hgcd => ?_, fun q hm hgcd => ?_, raises_of_someMUnset (by decide)⟩⟩
  · have hsome : inverseKeyMod (matrixOf q) ≠ none := fun hnone => (inverseKeyMod_eq_none_iff _).1 hnone hgcd
    obtain ⟨n, hn⟩ := Option.ne_none_iff_exists'.1 hsome
    have hentry := intOf_get_writeRAll s (q := n) fun j => by
      obtain ⟨hlo, hhi⟩ := inverseKeyMod_bounds hn j
      omega
    exact ⟨_, n, exec_invm_of_inverse hm hn, ⟨rfl, rfl⟩, hn, hentry, rfl, rfl, rfl, rfl⟩
  · rw [exec_invm_of_no_inverse hm ((inverseKeyMod_eq_none_iff _).2 hgcd)]
    exact raises_raiseError _ s

end Sys2Proof.Machine


/-! PROOF. The key commands and the multiplier (43_key_and_matvec.md R111 to R116). A command that finds its operands
writes what its matrix function gives, which fits the register; one that does not is the same error for MULV and MULVR.
The round trip R116 is an equation of columns modulo 26: the inverted key times the key times a column is the column. -/

namespace Sys2Proof.Machine

/-! ### SETKEY -/

section
variable {s : State} {q : Quad Entry}

theorem exec_setkey_of_valid (h : s.mHolds q) (hvalid : isValidKey (matrixOf q) = true) :
    exec .setkey s = .next ((s.writeK q).give 0 0) := by
  simp only [exec, execSetkey, State.readM_of_mHolds h, hvalid, if_true, respond]

theorem exec_setkey_of_invalid (h : s.mHolds q) (hinvalid : isValidKey (matrixOf q) = false) :
    exec .setkey s = raiseError .invalidKey s.dropK := by
  simp only [exec, execSetkey, State.readM_of_mHolds h, hinvalid, Bool.false_eq_true, if_false]

end

/-- Settles O35: `isValidKey` refuses three determinants, and the refusal drops the key before it raises its error. -/
theorem setkeyInstallsOrDropsTheKey : Obligations.SetkeyInstallsOrDropsTheKey := by
  obtain ⟨hword, hothers⟩ := words_formatZ (o := .setkey) rfl
  refine ⟨hword, hothers, fun s =>
    ⟨fun q hm h0 h25 h27 => ?_, fun q hm hinvalid => ?_, raises_of_someMUnset (by decide)⟩⟩
  · have hkey : isValidKey (matrixOf q) ≠ false := by
      rw [Ne, isValidKey_eq_false_iff, ← detOf_eq]
      omega
    exact ⟨_, exec_setkey_of_valid hm (Bool.eq_true_of_not_eq_false hkey), ⟨rfl, rfl⟩, rfl, rfl, rfl, rfl, rfl⟩
  · rw [exec_setkey_of_invalid hm ((isValidKey_eq_false_iff _).2 hinvalid)]
    exact raises_raiseError .invalidKey s.dropK

/-! ### INVKEY -/

section
variable {s : State} {q : Quad Entry}

theorem exec_invkey_of_inverse {n : Quad Int} (h : s.k = some q) (hn : inverseKeyMod (matrixOf q) = some n) :
    exec .invkey s = .next ((s.writeK (n.map toEntry)).give 0 0) := by
  simp only [exec, execInvkey, State.readK, h, hn, respond]

theorem exec_invkey_of_no_inverse (h : s.k = some q) (hnone : inverseKeyMod (matrixOf q) = none) :
    exec .invkey s = raiseError .noInverse s := by
  simp only [exec, execInvkey, State.readK, h, hnone]

theorem exec_invkey_of_no_key (h : s.k = none) : exec .invkey s = raiseError .emptyOrUnsetState s := by
  simp only [exec, execInvkey, State.readK, h]

end

/-- An integer that fits 16 bits comes back whole from its entry. -/
theorem toInt_toEntry {x : Int} (hlo : -2 ^ 15 ≤ x) (hhi : x < 2 ^ 15) : (toEntry x).toInt = x := by
  rw [toEntry, BitVec.toInt_ofInt]
  exact Int.bmod_eq_of_le (by omega) (by omega)

/-- The entries of an inverse key fit the key's registers. -/
theorem toInt_get_of_inverseKeyMod {q n : Quad Int} (h : inverseKeyMod q = some n) (j : Fin 4) :
    ((n.map toEntry).get j).toInt = n.get j := by
  obtain ⟨hlo, hhi⟩ := inverseKeyMod_bounds h j
  rw [Quad.get_map, toInt_toEntry (by omega) (by omega)]

theorem exists_inverseKeyMod_of_gcd_eq_one {q : Quad Int} (h : Int.gcd (determinant2x2 q) 26 = 1) :
    ∃ n, inverseKeyMod q = some n :=
  Option.ne_none_iff_exists'.1 fun hnone => (inverseKeyMod_eq_none_iff q).1 hnone h

/-- Settles O36: coprimality of the determinant to 26 decides whether there is an inverse, whose entries the registers
hold whole. -/
theorem invkeyInvertsTheKey : Obligations.InvkeyInvertsTheKey := by
  obtain ⟨hword, hothers⟩ := words_formatZ (o := .invkey) rfl
  refine ⟨hword, hothers, fun s => ⟨fun q hk hgcd => ?_, fun q hk hgcd => ?_, fun hnone => ?_⟩⟩
  · obtain ⟨n, hn⟩ := exists_inverseKeyMod_of_gcd_eq_one (q := matrixOf q) hgcd
    exact ⟨_, n, n.map toEntry, exec_invkey_of_inverse hk hn, ⟨rfl, rfl⟩, hn, rfl,
      fun j => ⟨toInt_get_of_inverseKeyMod hn j, inverseKeyMod_bounds hn j⟩, rfl, rfl, rfl, rfl⟩
  · rw [exec_invkey_of_no_inverse hk ((inverseKeyMod_eq_none_iff _).2 hgcd)]
    exact raises_raiseError _ s
  · rw [exec_invkey_of_no_key hnone]
    exact raises_raiseError _ s

/-! ### The multiplier's operands -/

theorem State.readV_of_vHolds {s : State} {p : Pair Sym} (h : s.vHolds p) : s.readV = some p :=
  (Pair.allSet_eq_some s.v p).2 h

/-- The multiplier finds both operands or misses one. -/
theorem State.operands_or_keyOrVectorUnset (s : State) :
    (∃ q p, s.k = some q ∧ s.vHolds p) ∨ s.keyOrVectorUnset := by
  cases hk : s.k with
  | none => exact .inr (.inl hk)
  | some q =>
    cases hv : s.v.allSet with
    | none => exact .inr (.inr ((Pair.allSet_eq_none s.v).1 hv))
    | some p => exact .inl ⟨q, p, rfl, (Pair.allSet_eq_some s.v p).1 hv⟩

section
variable {s : State} {q : Quad Entry} {p : Pair Sym}

theorem exec_mulv_of_operands (hk : s.k = some q) (hv : s.vHolds p) :
    exec .mulv s = .next ((s.writeRLow ((mulvec (matrixOf q) (columnOf p)).map toResult)).give 0 0) := by
  simp only [exec, execMulv, State.readK, hk, State.readV_of_vHolds hv, respond]

theorem exec_mulvr_of_operands (hk : s.k = some q) (hv : s.vHolds p) :
    exec .mulvr s =
      .next ((s.writeRLow (((mulvec (matrixOf q) (columnOf p)).map reduce).map toResult)).give 0 0) := by
  simp only [exec, execMulvr, State.readK, hk, State.readV_of_vHolds hv, respond, Pair.map]

/-- MULV and MULVR fail alike when the key or a vector register is unset. -/
theorem exec_of_keyOrVectorUnset {c : Instr} (hc : c = .mulv ∨ c = .mulvr) (h : s.keyOrVectorUnset) :
    exec c s = raiseError .emptyOrUnsetState s := by
  have hread : s.readK = none ∨ s.readV = none := h.imp_right (Pair.allSet_eq_none s.v).2
  obtain rfl | rfl := hc
  · simp only [exec, execMulv]
    split
    · next hk hv => simp [hk, hv] at hread
    · rfl
  · simp only [exec, execMulvr]
    split
    · next hk hv => simp [hk, hv] at hread
    · rfl

theorem raises_of_keyOrVectorUnset {c : Instr} (hc : c = .mulv ∨ c = .mulvr) (h : s.keyOrVectorUnset) :
    Raises (exec c s) .emptyOrUnsetState s :=
  exec_of_keyOrVectorUnset hc h ▸ raises_raiseError _ s

end

/-! ### Two results at once -/

/-- `t` is `s` after a success that answers (0, 0) and leaves the integers `p` in R[0..1]; nothing else changes. -/
def SetsLowResults (s : State) (p : Pair Int) (t : State) : Prop :=
  Replies s t 0 0 ∧ intOf (t.r.get 0) = some p.e0 ∧ intOf (t.r.get 1) = some p.e1 ∧
    t.r.get 2 = s.r.get 2 ∧ t.r.get 3 = s.r.get 3 ∧ t.m = s.m ∧ t.v = s.v ∧ t.k = s.k ∧ t.ef = s.ef

/-- Two integers that fit 32 bits are left in R[0..1] whole. -/
theorem setsLowResults_writeRLow (s : State) {p : Pair Int} (h : ∀ i, -2 ^ 31 ≤ p.get i ∧ p.get i < 2 ^ 31) :
    SetsLowResults s p ((s.writeRLow (p.map toResult)).give 0 0) :=
  ⟨⟨rfl, rfl⟩, congrArg some (toInt_toResult (h 0).1 (h 0).2), congrArg some (toInt_toResult (h 1).1 (h 1).2),
    rfl, rfl, rfl, rfl, rfl, rfl⟩

/-- One term of a row: an entry times a vector register, at most 32768 · 31 in magnitude. -/
theorem entry_mul_sym_bounds (x : Entry) (y : Sym) :
    -1015808 ≤ x.toInt * y.toNat ∧ x.toInt * y.toNat ≤ 1015808 := by
  have hentry : |x.toInt| ≤ 32768 := by have := entry_bounds x; exact abs_le.2 (by omega)
  have hsym : |(y.toNat : Int)| ≤ 31 := by have := y.isLt; exact abs_le.2 (by omega)
  refine abs_le.1 ?_
  calc |x.toInt * y.toNat|
      = |x.toInt| * |(y.toNat : Int)| := abs_mul _ _
    _ ≤ 32768 * 31 := mul_le_mul hentry hsym (abs_nonneg _) (by decide)
    _ = 1015808 := by decide

/-- Both rows of a product fit a result register, whatever the vector registers hold. -/
theorem mulvec_fits (q : Quad Entry) (p : Pair Sym) (i : Fin 2) :
    -2 ^ 31 ≤ (mulvec (matrixOf q) (columnOf p)).get i ∧ (mulvec (matrixOf q) (columnOf p)).get i < 2 ^ 31 := by
  have hrow (x y : Entry) : -2 ^ 31 ≤ x.toInt * p.e0.toNat + y.toInt * p.e1.toNat ∧
      x.toInt * p.e0.toNat + y.toInt * p.e1.toNat < 2 ^ 31 := by
    have hx := entry_mul_sym_bounds x p.e0
    have hy := entry_mul_sym_bounds y p.e1
    omega
  match i with
  | 0 => exact hrow q.e0 q.e1
  | 1 => exact hrow q.e2 q.e3

theorem map_reduce_fits (p : Pair Int) (i : Fin 2) :
    -2 ^ 31 ≤ (p.map reduce).get i ∧ (p.map reduce).get i < 2 ^ 31 := by
  have hbounds := reduce_bounds (p.get i)
  rw [Pair.get_map]
  omega

/-! ### MULV and MULVR -/

/-- Settles O37: both rows fit their registers. -/
theorem mulvWritesTheProduct : Obligations.MulvWritesTheProduct := by
  obtain ⟨hword, hothers⟩ := words_formatZ (o := .mulv) rfl
  refine ⟨hword, hothers, fun s => ⟨fun q p hk hv => ?_, raises_of_keyOrVectorUnset (.inl rfl)⟩⟩
  exact ⟨_, exec_mulv_of_operands hk hv, setsLowResults_writeRLow s (mulvec_fits q p)⟩

/-- MULVR leaves both rows reduced (R114). -/
theorem setsLowResults_of_mulvr {s : State} {q : Quad Entry} {p : Pair Sym} (hk : s.k = some q) (hv : s.vHolds p) :
    ∃ t, exec .mulvr s = .next t ∧ SetsLowResults s ((mulvec (matrixOf q) (columnOf p)).map reduce) t :=
  ⟨_, exec_mulvr_of_operands hk hv, setsLowResults_writeRLow s (map_reduce_fits _)⟩

/-- Settles O38: the reduced rows are remainders modulo 26. -/
theorem mulvrWritesTheReducedProduct : Obligations.MulvrWritesTheReducedProduct := by
  obtain ⟨hword, hothers⟩ := words_formatZ (o := .mulvr) rfl
  refine ⟨hword, hothers, fun s => ⟨fun q p hk hv => ?_, raises_of_keyOrVectorUnset (.inr rfl)⟩⟩
  obtain ⟨t, ht, hreplies, h0, h1, hframe⟩ := setsLowResults_of_mulvr hk hv
  refine ⟨t, ht, hreplies, ?_, ?_, hframe⟩
  · rw [h0, ← reduce_eq_emod]; rfl
  · rw [h1, ← reduce_eq_emod]; rfl

/-! ### MULVR is MULV, RED 0, RED 1 -/

/-- A command that goes on leaves the rest of the list to run. -/
theorem runAll_cons_of_next {c : Instr} {rest : List Instr} {s t : State} (h : exec c s = .next t) :
    runAll (c :: rest) s = runAll rest t := by
  simp only [runAll, h]

/-- Successes in a row add up; one of them is `okays 1`. -/
theorem append_okays_append_okays (rs : List Response) (n k : Nat) :
    rs ++ okays n ++ okays k = rs ++ okays (n + k) := by
  rw [List.append_assoc, okays, okays, List.replicate_append_replicate, okays]

/-- A command that fails does not reply with success. -/
theorem not_replies_success_of_raiseError {e : ErrorKind} {s t : State} (h : raiseError e s = .next t) :
    ¬ Replies s t 0 0 := by
  obtain ⟨-, -, -, -, -, -, hresponses⟩ := raiseError_eq_next h
  rintro ⟨hsuccess, -⟩
  rw [hresponses, List.append_cancel_left_eq, List.cons.injEq, Response.mk.injEq] at hsuccess
  exact e.code_ne_zero hsuccess.1.1

/-- RED 0 and RED 1 on two results in R[0..1] leave what writing the reduced results would. -/
theorem runAll_red_red (s : State) {p : Pair Int} (h : ∀ i, -2 ^ 31 ≤ p.get i ∧ p.get i < 2 ^ 31) :
    ∃ b, runAll [.red 0, .red 1] ((s.writeRLow (p.map toResult)).give 0 0) = .next b ∧
      ((s.writeRLow ((p.map reduce).map toResult)).give 0 0).sameBlock b ∧
      b.responses = s.responses ++ okays 3 := by
  have hreduced : (p.map toResult).map (fun x => toResult (reduce x.toInt)) = (p.map reduce).map toResult :=
    Pair.ext (congrArg (toResult <| reduce ·) (toInt_toResult (h 0).1 (h 0).2))
      (congrArg (toResult <| reduce ·) (toInt_toResult (h 1).1 (h 1).2))
  refine ⟨_, (runAll_cons_of_next (exec_red_of_set (x := toResult p.e0) rfl)).trans
    (runAll_cons_of_next (exec_red_of_set (x := toResult p.e1) rfl)), ⟨rfl, rfl, rfl, ?_, rfl⟩, ?_⟩
  · rw [← hreduced]
    rfl
  · calc s.responses ++ okays 1 ++ okays 1 ++ okays 1
      = s.responses ++ okays 3 := by simp only [append_okays_append_okays]

/-- Settles O39: with both operands the block is the same, as the exact rows fit the registers RED reads them from;
without, both commands are the same error. -/
theorem mulvrIsMulvThenReduce : Obligations.MulvrIsMulvThenReduce := by
  intro s t ht
  obtain ⟨q, p, hk, hv⟩ | hunset := s.operands_or_keyOrVectorUnset
  · have hmulv := exec_mulv_of_operands hk hv
    obtain ⟨b, hrun, hblock, hresponses⟩ := runAll_red_red s (mulvec_fits q p)
    refine ⟨fun _ => ⟨_, b, exec_mulvr_of_operands hk hv, (runAll_cons_of_next hmulv).trans hrun, hblock, rfl,
      hresponses⟩, fun hfail => ?_⟩
    rw [hmulv] at ht
    cases ht
    exact absurd ⟨rfl, rfl⟩ hfail
  · rw [exec_of_keyOrVectorUnset (.inl rfl) hunset] at ht
    exact ⟨fun hsuccess => absurd hsuccess (not_replies_success_of_raiseError ht),
      fun _ => (exec_of_keyOrVectorUnset (.inr rfl) hunset).trans ht⟩

/-! ### Columns of symbols modulo 26 -/

/-- Two symbols as a column of integers. -/
def symbolColumn (a : Pair Symbol) : Pair Int := a.map fun x => (x.val : Int)

theorem map_reduce_symbolColumn (a : Pair Symbol) : (symbolColumn a).map reduce = symbolColumn a := by
  have hsymbol (x : Symbol) : reduce (x.val : Int) = x.val := reduce_of_bounds (by omega) (by omega)
  exact Pair.ext (hsymbol a.e0) (hsymbol a.e1)

theorem transformedBy_iff (q : Quad Entry) (a b : Pair Symbol) :
    TransformedBy q a b ↔ (mulvec (matrixOf q) (symbolColumn a)).map reduce = symbolColumn b := by
  rw [Pair.ext_iff, eq_comm (b := (symbolColumn b).e0), eq_comm (b := (symbolColumn b).e1)]
  simp only [TransformedBy, ← reduce_eq_emod]
  rfl

/-- A key takes every pair of symbols to a pair of symbols. -/
theorem exists_transformedBy (q : Quad Entry) (a : Pair Symbol) : ∃ b, TransformedBy q a b := by
  have hsymbol (z : Int) : ∃ x : Symbol, (x.val : Int) = z % 26 :=
    ⟨⟨(z % 26).toNat, by omega⟩, Int.toNat_of_nonneg (by omega)⟩
  obtain ⟨x, hx⟩ := hsymbol ((q.get 0).toInt * a.e0.val + (q.get 1).toInt * a.e1.val)
  obtain ⟨y, hy⟩ := hsymbol ((q.get 2).toInt * a.e0.val + (q.get 3).toInt * a.e1.val)
  exact ⟨⟨x, y⟩, hx, hy⟩

/-- The matrix with these two columns. -/
def ofColumns (c d : Pair Int) : Quad Int := ⟨c.e0, d.e0, c.e1, d.e1⟩

/-- A matrix times a matrix times a column: the first times the second's columns makes the product matrix. -/
theorem mulvec_mulvec (n m : Quad Int) (p : Pair Int) :
    mulvec n (mulvec m p) = mulvec (ofColumns (mulvec n ⟨m.e0, m.e2⟩) (mulvec n ⟨m.e1, m.e3⟩)) p := by
  simp only [mulvec, ofColumns, Pair.mk.injEq]
  constructor <;> ring

/-- The inverse modulo 26 times the matrix times a column is the column, modulo 26. -/
theorem map_reduce_mulvec_inverse {m n : Quad Int} (h : inverseKeyMod m = some n) (p : Pair Int) :
    (mulvec n (mulvec m p)).map reduce = p.map reduce := by
  obtain ⟨-, -, hfst, hsnd, -⟩ := inverseKeyInvertsModTwentySix m n h
  have hidentity : (ofColumns (mulvec n ⟨m.e0, m.e2⟩) (mulvec n ⟨m.e1, m.e3⟩)).map reduce =
      ofColumns ⟨1, 0⟩ ⟨0, 1⟩ := hfst ▸ hsnd ▸ rfl
  rw [mulvec_mulvec, ← map_reduce_mulvec_matrix, hidentity]
  simp [mulvec, ofColumns]

/-- The inverted key takes back what the key did to a pair of symbols. -/
theorem transformedBy_inverse {q : Quad Entry} {n : Quad Int} {a b : Pair Symbol}
    (hn : inverseKeyMod (matrixOf q) = some n) (h : TransformedBy q a b) :
    TransformedBy (n.map toEntry) b a := by
  have hentries : matrixOf (n.map toEntry) = n :=
    Quad.ext (toInt_get_of_inverseKeyMod hn 0) (toInt_get_of_inverseKeyMod hn 1) (toInt_get_of_inverseKeyMod hn 2)
      (toInt_get_of_inverseKeyMod hn 3)
  rw [transformedBy_iff] at h ⊢
  rw [hentries, ← h, map_reduce_mulvec_column, map_reduce_mulvec_inverse hn, map_reduce_symbolColumn]

/-! ### Transforming one pair on the block -/

theorem ldvSymbolOk_symbolImm (x : Symbol) : ldvSymbolOk (symbolImm x) = true := by
  revert x; decide

/-- The immediate of a symbol reaches its register whole. -/
theorem immSym_symbolImm_toNat (x : Symbol) : (immSym (symbolImm x)).toNat = x.val := by
  revert x; decide

/-- LDV of a symbol into the V register of an index below 2 (R69). -/
theorem exec_ldv_symbolImm (s : State) {i : Fin 4} (hi : i.val < 2) (x : Symbol) :
    exec (.ldv i (symbolImm x)) s = .next ((s.writeV ⟨i.val, hi⟩ (immSym (symbolImm x))).give 0 0) := by
  simp only [exec, execLdv, hi, dif_pos, ldvSymbolOk_symbolImm, if_true, respond]

/-- A pair of symbols as the V registers hold it. -/
def symPair (a : Pair Symbol) : Pair Sym := a.map fun x => immSym (symbolImm x)

theorem columnOf_symPair (a : Pair Symbol) : columnOf (symPair a) = symbolColumn a :=
  Pair.ext (congrArg Nat.cast (immSym_symbolImm_toNat a.e0)) (congrArg Nat.cast (immSym_symbolImm_toNat a.e1))

/-- LDV 0 and LDV 1 load a pair of symbols and leave the key. -/
theorem runAll_ldv_ldv (s : State) (a : Pair Symbol) (rest : List Instr) :
    ∃ t, runAll (.ldv 0 (symbolImm a.e0) :: .ldv 1 (symbolImm a.e1) :: rest) s = runAll rest t ∧
      t.vHolds (symPair a) ∧ t.k = s.k ∧ t.responses = s.responses ++ okays 2 :=
  ⟨_, (runAll_cons_of_next (exec_ldv_symbolImm s (by decide) a.e0)).trans
    (runAll_cons_of_next (exec_ldv_symbolImm _ (by decide) a.e1)), Fin.forall_fin_two.2 ⟨rfl, rfl⟩, rfl,
    append_okays_append_okays _ 1 1⟩

/-- Loading a pair of symbols and MULVR leave in R[0..1] the pair the key makes of it (R114, R122). -/
theorem runAll_ldv_ldv_mulvr {s : State} {q : Quad Entry} {a b : Pair Symbol} (hk : s.k = some q)
    (h : TransformedBy q a b) :
    ∃ t, runAll [.ldv 0 (symbolImm a.e0), .ldv 1 (symbolImm a.e1), .mulvr] s = .next t ∧ t.k = some q ∧
      intOf (t.r.get 0) = some (b.e0.val : Int) ∧ intOf (t.r.get 1) = some (b.e1.val : Int) ∧
      t.responses = s.responses ++ okays 3 := by
  obtain ⟨u, hrun, hv, huk, huresponses⟩ := runAll_ldv_ldv s a [.mulvr]
  obtain ⟨t, ht, ⟨hresponses, -⟩, h0, h1, -, -, -, -, htk, -⟩ := setsLowResults_of_mulvr (huk.trans hk) hv
  rw [columnOf_symPair, (transformedBy_iff q a b).1 h] at h0 h1
  refine ⟨t, hrun.trans (runAll_cons_of_next ht), htk.trans (huk.trans hk), h0, h1, ?_⟩
  rw [hresponses, huresponses]
  exact append_okays_append_okays _ 2 1

/-- Settles O40: SETKEY puts m in K and INVKEY its inverse, which takes back what m did to the pair. -/
theorem encryptThenDecryptGivesBackThePair : Obligations.EncryptThenDecryptGivesBackThePair := by
  intro s m x y hm hvalid hgcd
  obtain ⟨n, hn⟩ := exists_inverseKeyMod_of_gcd_eq_one (q := matrixOf m) hgcd
  obtain ⟨b, hb⟩ := exists_transformedBy m ⟨x, y⟩
  obtain ⟨t, ht, htk, hp, hq, htresponses⟩ :=
    runAll_ldv_ldv_mulvr (s := (s.writeK m).give 0 0) rfl hb
  obtain ⟨u, hu, -, hx, hy, huresponses⟩ :=
    runAll_ldv_ldv_mulvr (s := (t.writeK (n.map toEntry)).give 0 0) rfl (transformedBy_inverse hn hb)
  refine ⟨t, u, b.e0, b.e1, (runAll_cons_of_next (exec_setkey_of_valid hm hvalid)).trans ht, hp, hq,
    (runAll_cons_of_next (exec_invkey_of_inverse htk hn)).trans hu, hx, hy, ?_⟩
  calc u.responses
      = s.responses ++ okays 1 ++ okays 3 ++ okays 1 ++ okays 3 := huresponses.trans (htresponses ▸ rfl)
    _ = s.responses ++ okays 8 := by simp only [append_okays_append_okays]

end Sys2Proof.Machine

/-! PROOF. The host's sequences SETKEY4 and ENCV (44_host_sequences.md R120, R121). The host issues encoded commands, so
each runs as its meaning says: a success hands its data to what the rest of the sequence answers, a failure ends the
sequence with its code. -/

namespace Sys2Proof.Machine

/-! ### Issuing one command -/

/-- The word of a well-formed command does what the command means. -/
theorem transact_encode {i : Instr} (hwf : i.wellFormed = true) (s : State) : transact (encode i) s = exec i s := by
  rw [transact, step_offerNow, execute, decode_encode hwf]

/-- What the host has when the data `ds` were answered before the rest of the sequence. -/
def Issued.prepend (ds : List Word) (x : Issued) : Issued := { x with data := ds ++ x.data }

theorem Issued.prepend_prepend (ds es : List Word) (x : Issued) : (x.prepend es).prepend ds = x.prepend (ds ++ es) := by
  simp only [Issued.prepend, List.append_assoc]

section
variable {i : Instr} {s t u : State}

/-- After a success the host goes on. -/
theorem issue_cons_of_success {d : Word} (hwf : i.wellFormed = true) (ht : exec i s = .next t)
    (hreplies : Replies s t 0 d) (rest : List Instr) : issue (i :: rest) s = (issue rest t).prepend [d] := by
  rw [issue, transact_encode hwf, ht]
  simp only [hreplies.1, List.getLast?_concat, if_true]
  rfl

/-- After a failure the host stops. -/
theorem issue_cons_of_raises {e : ErrorKind} (hwf : i.wellFormed = true) (h : Raises (exec i s) e u)
    (rest : List Instr) : ∃ t, issue (i :: rest) s = ⟨t, [], some e.code⟩ ∧ FailsWith e u t := by
  obtain ⟨t, ht, hm, hv, hk, hr, hef, hresponses, hinputs⟩ := h
  refine ⟨t, ?_, hm, hv, hk, hr, hef, hresponses, hinputs⟩
  rw [issue, transact_encode hwf, ht]
  simp only [hresponses, List.getLast?_concat, e.code_ne_zero, if_false]

end

/-! ### SETKEY4 -/

theorem exec_ldm (s : State) (i : Fin 4) (imm : BitVec 16) :
    exec (.ldm i imm) s = .next ((s.writeM i (immEntry imm)).give 0 0) := rfl

/-- LDM answers no data. -/
theorem issue_ldm_cons (s : State) (i : Fin 4) (imm : BitVec 16) (rest : List Instr) :
    issue (.ldm i imm :: rest) s = (issue rest ((s.writeM i (immEntry imm)).give 0 0)).prepend [0] :=
  issue_cons_of_success rfl (exec_ldm s i imm) ⟨rfl, rfl⟩ rest

/-- Four LDM load a matrix, answer no data and leave the key. -/
theorem issue_ldm_four (s : State) (q : Quad (BitVec 16)) (rest : List Instr) :
    ∃ t, issue (.ldm 0 q.e0 :: .ldm 1 q.e1 :: .ldm 2 q.e2 :: .ldm 3 q.e3 :: rest) s =
        (issue rest t).prepend [0, 0, 0, 0] ∧ t.mHolds q ∧ t.k = s.k := by
  simp only [issue_ldm_cons, Issued.prepend_prepend]
  exact ⟨_, rfl, (forall_index _).2 ⟨rfl, rfl, rfl, rfl⟩, rfl⟩

/-- Settles O52: the four LDM hand SETKEY the matrix, whose validity decides between installing and dropping. -/
theorem setkeyFourInstallsAKey : Obligations.SetkeyFourInstallsAKey := by
  intro s a b c d
  obtain ⟨t, hissue, hm, -⟩ := issue_ldm_four s ⟨a, b, c, d⟩ [.setkey]
  rw [setkey4, hissue]
  cases hkey : isValidKey (matrixOf ⟨a, b, c, d⟩) with
  | true =>
    rw [issue_cons_of_success rfl (exec_setkey_of_valid hm hkey) ⟨rfl, rfl⟩]
    exact .inl ⟨rfl, rfl, rfl⟩
  | false =>
    obtain ⟨u, hstop, -, -, huk, -⟩ := issue_cons_of_raises (i := .setkey) rfl
      (exec_setkey_of_invalid hm hkey ▸ raises_raiseError .invalidKey t.dropK) []
    rw [hstop]
    exact .inr ⟨rfl, rfl, huk, rfl⟩

/-! ### ENCV -/

/-- LDV of a symbol answers no data. -/
theorem issue_ldv_cons (s : State) {i : Fin 4} (hi : i.val < 2) (x : Symbol) (rest : List Instr) :
    issue (.ldv i (symbolImm x) :: rest) s =
      (issue rest ((s.writeV ⟨i.val, hi⟩ (immSym (symbolImm x))).give 0 0)).prepend [0] := by
  have hwf : (Instr.ldv i (symbolImm x)).wellFormed = true :=
    Bool.and_eq_true_iff.2 ⟨decide_eq_true hi, ldvSymbolOk_symbolImm x⟩
  exact issue_cons_of_success hwf (exec_ldv_symbolImm s hi x) ⟨rfl, rfl⟩ rest

/-- LDV 0 and LDV 1 load a pair of symbols, answer no data and leave the key. -/
theorem issue_ldv_ldv (s : State) (a : Pair Symbol) (rest : List Instr) :
    ∃ t, issue (.ldv 0 (symbolImm a.e0) :: .ldv 1 (symbolImm a.e1) :: rest) s = (issue rest t).prepend [0, 0] ∧
      t.vHolds (symPair a) ∧ t.k = s.k := by
  rw [issue_ldv_cons s (by decide), issue_ldv_cons _ (by decide), Issued.prepend_prepend]
  exact ⟨_, rfl, Fin.forall_fin_two.2 ⟨rfl, rfl⟩, rfl⟩

/-- RDR of a set register answers the pattern of its integer. -/
theorem issue_rdr_cons {s : State} {i : Fin 4} {z : Int} (h : intOf (s.r.get i) = some z) (rest : List Instr) :
    issue (.rdr i :: rest) s = (issue rest (s.give 0 (tc32 z))).prepend [tc32 z] := by
  obtain ⟨x, hx, rfl⟩ := Option.map_eq_some_iff.1 h
  rw [tc32_toInt]
  exact issue_cons_of_success rfl (exec_rdr_of_set hx) (s.replies_give 0 x) rest

/-- ENCV with a key answers the pair of symbols the key makes of its pair, and keeps the key. -/
theorem issue_encv_of_key {s : State} {q : Quad Entry} {a b : Pair Symbol} (hk : s.k = some q)
    (h : TransformedBy q a b) :
    ∃ t, issue (encv a.e0 a.e1) s = ⟨t, [0, 0, 0, tc32 b.e0.val, tc32 b.e1.val], none⟩ ∧ t.k = some q := by
  obtain ⟨u, hload, hv, huk⟩ := issue_ldv_ldv s a [.mulvr, .rdr 0, .rdr 1]
  obtain ⟨t, ht, hreplies, h0, h1, -, -, -, -, htk, -⟩ := setsLowResults_of_mulvr (huk.trans hk) hv
  rw [columnOf_symPair, (transformedBy_iff q a b).1 h] at h0 h1
  rw [encv, hload, issue_cons_of_success rfl ht hreplies, issue_rdr_cons h0,
    issue_rdr_cons (s := t.give 0 _) h1]
  exact ⟨_, rfl, htk.trans (huk.trans hk)⟩

/-- ENCV without a key stops at MULVR: only the two LDV have answered. -/
theorem issue_encv_of_no_key {s : State} (hk : s.k = none) (a : Pair Symbol) :
    ∃ t, issue (encv a.e0 a.e1) s = ⟨t, [0, 0], some 3⟩ ∧ t.k = none := by
  obtain ⟨u, hload, -, huk⟩ := issue_ldv_ldv s a [.mulvr, .rdr 0, .rdr 1]
  obtain ⟨t, hstop, -, -, htk, -⟩ := issue_cons_of_raises (i := .mulvr) rfl
    (raises_of_keyOrVectorUnset (.inr rfl) (.inl (huk.trans hk))) [.rdr 0, .rdr 1]
  refine ⟨t, ?_, htk.trans (huk.trans hk)⟩
  rw [encv, hload, hstop]
  rfl

/-- A symbol comes back whole from its pattern. -/
theorem toNat_tc32_symbol (x : Symbol) : (tc32 x.val).toNat = x.val := by
  revert x; decide

/-- Settles O53: the symbols answered are the reduced rows; with no key there is nothing to multiply by. -/
theorem encvTransformsOneVector : Obligations.EncvTransformsOneVector := by
  refine fun s x y => ⟨fun q hk => ?_, fun hk => ?_⟩
  · obtain ⟨b, hb⟩ := exists_transformedBy q ⟨x, y⟩
    obtain ⟨t, hissue, -⟩ := issue_encv_of_key hk hb
    refine ⟨tc32 b.e0.val, tc32 b.e1.val, congrArg Issued.error hissue, congrArg Issued.data hissue, ?_⟩
    rw [toNat_tc32_symbol, toNat_tc32_symbol]
    exact hb
  · obtain ⟨t, hissue, -⟩ := issue_encv_of_no_key hk ⟨x, y⟩
    exact ⟨congrArg Issued.error hissue, congrArg Issued.data hissue⟩

end Sys2Proof.Machine


/-! PROOF. The complete list of errors (60_exceptions.md R141, R146, R147). Each cause names one error, the causes of
different errors exclude one another, and each raises its error; a command with none of them succeeds. So a word has at
most one cause, which is read off its code, and code 0 is left for a word with none. -/

namespace Sys2Proof.Machine

/-! ### The causes, by error -/

/-- The cause of each error for a decoded command, in R146's order. IllegalCommand is decided from the word alone. -/
def CommandCause (i : Instr) (s : State) : ErrorKind → Prop
  | .illegalCommand => False
  | .emptyOrUnsetState => i.Missing s
  | .invalidKey => ¬ i.Missing s ∧ i.KeyRejected s
  | .noInverse => ¬ i.Missing s ∧ i.NotInvertible s

/-- The cause of each error for a command word (R141). -/
def WordCause (w : Word) (s : State) : ErrorKind → Prop
  | .illegalCommand => IllegalWord w
  | .emptyOrUnsetState => ∃ i, decode w = .ok i ∧ i.Missing s
  | .invalidKey => ∃ i, decode w = .ok i ∧ ¬ i.Missing s ∧ i.KeyRejected s
  | .noInverse => ∃ i, decode w = .ok i ∧ ¬ i.Missing s ∧ i.NotInvertible s

/-- The state an error is raised in: InvalidKey alone changes more than its EF bit, it drops the key first (R147). -/
def State.atFailure (s : State) : ErrorKind → State
  | .invalidKey => s.dropK
  | .noInverse | .emptyOrUnsetState | .illegalCommand => s

theorem State.atFailure_of_ne_invalidKey {e : ErrorKind} (h : e ≠ .invalidKey) (s : State) : s.atFailure e = s := by
  cases e with
  | invalidKey => exact absurd rfl h
  | noInverse | emptyOrUnsetState | illegalCommand => rfl

theorem FailsWith.replies {e : ErrorKind} {s t : State} (h : FailsWith e s t) : Replies s t e.code 0 := by
  obtain ⟨-, -, -, -, -, hreplies⟩ := h
  exact hreplies

/-- Dropping the key leaves the ports. -/
theorem State.replies_atFailure_iff {s t : State} {e : ErrorKind} {c : Code} {d : Word} :
    Replies (s.atFailure e) t c d ↔ Replies s t c d := by
  cases e with
  | invalidKey | noInverse | emptyOrUnsetState | illegalCommand => rfl

theorem wordCause_iff_of_decode_ok {w : Word} {i : Instr} (h : decode w = .ok i) (s : State) (e : ErrorKind) :
    WordCause w s e ↔ CommandCause i s e := by
  cases e with
  | illegalCommand => exact iff_of_false ((exists_decode_eq_ok_iff w).1 ⟨i, h⟩) id
  | emptyOrUnsetState | invalidKey | noInverse => simp [WordCause, CommandCause, h]

theorem wordCause_iff_of_decode_error {w : Word} {d : DecodeError} (h : decode w = .error d) (s : State)
    (e : ErrorKind) : WordCause w s e ↔ e = .illegalCommand := by
  cases e with
  | illegalCommand =>
    have hillegal : IllegalWord w := not_not.1 fun hlegal => by simpa [h] using (exists_decode_eq_ok_iff w).2 hlegal
    exact iff_of_true hillegal rfl
  | emptyOrUnsetState | invalidKey | noInverse => simp [WordCause, h]

/-- InvalidKey and NoInverse never compete (R146). -/
theorem not_notInvertible_of_keyRejected {i : Instr} {s : State} (h : i.KeyRejected s) : ¬ i.NotInvertible s := by
  obtain ⟨rfl, -⟩ := h
  exact id

/-! ### Each cause raises its error -/

theorem raises_of_missing {i : Instr} {s : State} (h : i.Missing s) : Raises (exec i s) .emptyOrUnsetState s := by
  cases i with
  | nop | ldm | ldv | ldr | rds | clre | srst => exact h.elim
  | rdr => exact exec_rdr_of_unset h ▸ raises_raiseError _ s
  | red => exact exec_red_of_unset h ▸ raises_raiseError _ s
  | minv => exact exec_minv_of_unset h ▸ raises_raiseError _ s
  | rdk i => exact exec_rdk_of_no_key h i ▸ raises_raiseError _ s
  | invkey => exact exec_invkey_of_no_key h ▸ raises_raiseError _ s
  | det | adj | kchk | invm | setkey => exact raises_of_someMUnset (by decide) h
  | mulv => exact raises_of_keyOrVectorUnset (.inl rfl) h
  | mulvr => exact raises_of_keyOrVectorUnset (.inr rfl) h

theorem raises_of_keyRejected {i : Instr} {s : State} (h : i.KeyRejected s) :
    Raises (exec i s) .invalidKey s.dropK := by
  obtain ⟨rfl, q, hm, hdet⟩ := h
  exact exec_setkey_of_invalid hm ((isValidKey_eq_false_iff _).2 hdet) ▸ raises_raiseError _ _

theorem raises_of_notInvertible {i : Instr} {s : State} (h : i.NotInvertible s) : Raises (exec i s) .noInverse s := by
  cases i with
  | minv =>
    obtain ⟨x, hx, hgcd⟩ := h
    exact exec_minv_of_no_inverse hx ((modInverse_eq_none_iff_gcd_ne_one _).2 hgcd) ▸ raises_raiseError _ s
  | invm =>
    obtain ⟨q, hm, hgcd⟩ := h
    exact exec_invm_of_no_inverse hm ((inverseKeyMod_eq_none_iff _).2 hgcd) ▸ raises_raiseError _ s
  | invkey =>
    obtain ⟨q, hk, hgcd⟩ := h
    exact exec_invkey_of_no_inverse hk ((inverseKeyMod_eq_none_iff _).2 hgcd) ▸ raises_raiseError _ s
  | nop | ldm | ldv | ldr | rdr | rdk | rds | clre | srst | red | det | adj | kchk | setkey | mulv | mulvr =>
    exact h.elim

theorem raises_of_commandCause {i : Instr} {s : State} {e : ErrorKind} (h : CommandCause i s e) :
    Raises (exec i s) e (s.atFailure e) := by
  cases e with
  | illegalCommand => exact h.elim
  | emptyOrUnsetState => exact raises_of_missing h
  | invalidKey => exact raises_of_keyRejected h.2
  | noInverse => exact raises_of_notInvertible h.2

/-! ### Without a cause a command succeeds -/

/-- The answer is one response with code 0. -/
def Succeeds (s : State) (a : Answer) : Prop := ∃ t d, a = .next t ∧ Replies s t 0 d

theorem exec_ldv_of_wellFormed {idx : Fin 4} {imm : BitVec 16} (h : (Instr.ldv idx imm).wellFormed = true)
    (s : State) : ∃ i : Fin 2, exec (.ldv idx imm) s = .next ((s.writeV i (immSym imm)).give 0 0) := by
  obtain ⟨hindex, hsymbol⟩ := Bool.and_eq_true_iff.1 h
  have hidx : idx.val < 2 := of_decide_eq_true hindex
  exact ⟨⟨idx.val, hidx⟩, by simp only [exec, execLdv, hidx, dif_pos, hsymbol, if_true, respond]⟩

theorem State.exists_mHolds {s : State} (h : ¬ s.someMUnset) : ∃ q, s.mHolds q := by
  obtain ⟨q, hq⟩ := Option.ne_none_iff_exists'.1 fun hnone => h ((Quad.allSet_eq_none s.m).1 hnone)
  exact ⟨q, (Quad.allSet_eq_some s.m q).1 hq⟩

/-- Each command finds the operands it reads, and its check passes on their values. -/
theorem exec_succeeds {i : Instr} {s : State} (hwf : i.wellFormed = true) (hset : ¬ i.Missing s)
    (hkey : ¬ i.KeyRejected s) (hinv : ¬ i.NotInvertible s) : Succeeds s (exec i s) := by
  cases i with
  | nop | ldm | ldr | rds | clre | srst => exact ⟨_, _, rfl, rfl, rfl⟩
  | ldv =>
    obtain ⟨i, hexec⟩ := exec_ldv_of_wellFormed hwf s
    exact ⟨_, _, hexec, rfl, rfl⟩
  | rdr =>
    obtain ⟨x, hx⟩ := Option.ne_none_iff_exists'.1 hset
    exact ⟨_, _, exec_rdr_of_set hx, rfl, rfl⟩
  | red =>
    obtain ⟨x, hx⟩ := Option.ne_none_iff_exists'.1 hset
    exact ⟨_, _, exec_red_of_set hx, rfl, rfl⟩
  | minv =>
    obtain ⟨x, hx⟩ := Option.ne_none_iff_exists'.1 hset
    have hgcd : Int.gcd x.toInt 26 = 1 := not_not.1 fun hne => hinv ⟨x, hx, hne⟩
    obtain ⟨b, hb⟩ := (exists_modInverse_iff_gcd_eq_one _).2 hgcd
    exact ⟨_, _, exec_minv_of_inverse hx hb, rfl, rfl⟩
  | rdk i =>
    obtain ⟨q, hk⟩ := Option.ne_none_iff_exists'.1 hset
    exact ⟨_, _, exec_rdk_of_key hk i, rfl, rfl⟩
  | invkey =>
    obtain ⟨q, hk⟩ := Option.ne_none_iff_exists'.1 hset
    have hgcd : Int.gcd (detOf q) 26 = 1 := not_not.1 fun hne => hinv ⟨q, hk, hne⟩
    obtain ⟨n, hn⟩ := exists_inverseKeyMod_of_gcd_eq_one (q := matrixOf q) hgcd
    exact ⟨_, _, exec_invkey_of_inverse hk hn, rfl, rfl⟩
  | det =>
    obtain ⟨q, hm⟩ := State.exists_mHolds hset
    exact ⟨_, _, exec_det_of_mHolds hm, rfl, rfl⟩
  | adj =>
    obtain ⟨q, hm⟩ := State.exists_mHolds hset
    exact ⟨_, _, exec_adj_of_mHolds hm, rfl, rfl⟩
  | kchk =>
    obtain ⟨q, hm⟩ := State.exists_mHolds hset
    exact ⟨_, _, exec_kchk_of_mHolds hm, rfl, rfl⟩
  | invm =>
    obtain ⟨q, hm⟩ := State.exists_mHolds hset
    have hgcd : Int.gcd (detOf q) 26 = 1 := not_not.1 fun hne => hinv ⟨q, hm, hne⟩
    obtain ⟨n, hn⟩ := exists_inverseKeyMod_of_gcd_eq_one (q := matrixOf q) hgcd
    exact ⟨_, _, exec_invm_of_inverse hm hn, rfl, rfl⟩
  | setkey =>
    obtain ⟨q, hm⟩ := State.exists_mHolds hset
    have hvalid : isValidKey (matrixOf q) ≠ false := fun hinvalid =>
      hkey ⟨rfl, q, hm, (isValidKey_eq_false_iff _).1 hinvalid⟩
    exact ⟨_, _, exec_setkey_of_valid hm (Bool.eq_true_of_not_eq_false hvalid), rfl, rfl⟩
  | mulv =>
    obtain ⟨q, p, hk, hv⟩ := s.operands_or_keyOrVectorUnset.resolve_right hset
    exact ⟨_, _, exec_mulv_of_operands hk hv, rfl, rfl⟩
  | mulvr =>
    obtain ⟨q, p, hk, hv⟩ := s.operands_or_keyOrVectorUnset.resolve_right hset
    exact ⟨_, _, exec_mulvr_of_operands hk hv, rfl, rfl⟩

/-! ### One ending for each word -/

/-- Either one error has its cause and the answer raises it, or no error has and the answer is a success. -/
def EndsByCause (cause : ErrorKind → Prop) (s : State) (a : Answer) : Prop :=
  (∃ e, (∀ f, cause f ↔ f = e) ∧ Raises a e (s.atFailure e)) ∨ (∀ f, ¬ cause f) ∧ Succeeds s a

/-- The causes of one command exclude one another (R146). -/
theorem commandCause_unique {i : Instr} {s : State} {e f : ErrorKind} (he : CommandCause i s e)
    (hf : CommandCause i s f) : f = e := by
  cases e with
  | illegalCommand => exact he.elim
  | emptyOrUnsetState =>
    cases f with
    | illegalCommand => exact hf.elim
    | emptyOrUnsetState => rfl
    | invalidKey | noInverse => exact absurd he hf.1
  | invalidKey =>
    cases f with
    | illegalCommand => exact hf.elim
    | emptyOrUnsetState => exact absurd hf he.1
    | invalidKey => rfl
    | noInverse => exact absurd hf.2 (not_notInvertible_of_keyRejected he.2)
  | noInverse =>
    cases f with
    | illegalCommand => exact hf.elim
    | emptyOrUnsetState => exact absurd hf he.1
    | invalidKey => exact absurd he.2 (not_notInvertible_of_keyRejected hf.2)
    | noInverse => rfl

theorem exec_endsByCause {i : Instr} (hwf : i.wellFormed = true) (s : State) :
    EndsByCause (CommandCause i s) s (exec i s) := by
  by_cases h : ∃ e, CommandCause i s e
  · obtain ⟨e, he⟩ := h
    exact .inl ⟨e, fun f => ⟨commandCause_unique he, fun hfe => hfe ▸ he⟩, raises_of_commandCause he⟩
  · have hnone := not_exists.1 h
    have hset : ¬ i.Missing s := hnone .emptyOrUnsetState
    exact .inr ⟨hnone, exec_succeeds hwf hset (fun hkey => hnone .invalidKey ⟨hset, hkey⟩)
      fun hinv => hnone .noInverse ⟨hset, hinv⟩⟩

theorem execute_endsByCause (w : Word) (s : State) : EndsByCause (WordCause w s) s (execute w s) := by
  cases h : decode w with
  | ok i =>
    obtain ⟨hwf, -⟩ := wellFormed_and_encode_of_decode h
    rw [execute_of_decode_ok h, funext fun e => propext (wordCause_iff_of_decode_ok h s e)]
    exact exec_endsByCause hwf s
  | error d =>
    rw [execute_of_decode_error h]
    exact .inl ⟨.illegalCommand, wordCause_iff_of_decode_error h s, raises_raiseError _ s⟩

theorem ErrorKind.code_le_four (e : ErrorKind) : e.code.toNat ≤ 4 := by
  cases e <;> decide

/-- The code of the one response tells which error had its cause, if any, and with it the whole effect. -/
theorem exists_reply_of_endsByCause {cause : ErrorKind → Prop} {s : State} {a : Answer} (h : EndsByCause cause s a) :
    ∃ t code data, a = .next t ∧ Replies s t code data ∧ code.toNat ≤ 4 ∧ (∀ f, code = f.code ↔ cause f) ∧
      ∀ f : ErrorKind, code = f.code → FailsWith f (s.atFailure f) t := by
  obtain ⟨e, hcause, t, ht, hfails⟩ | ⟨hnone, t, d, ht, hreplies⟩ := h
  · refine ⟨t, e.code, 0, ht, State.replies_atFailure_iff.1 hfails.replies, e.code_le_four, fun f => ?_, fun f hf => ?_⟩
    · rw [hcause, ErrorKind.code_inj, eq_comm]
    · exact ErrorKind.code_inj.1 hf ▸ hfails
  · exact ⟨t, 0, d, ht, hreplies, by decide, fun f => iff_of_false f.code_ne_zero.symm (hnone f),
      fun f hf => absurd hf f.code_ne_zero.symm⟩

/-- Settles O43: the ending of a word by its one cause, the cause of each code written out. -/
theorem everyErrorHasItsOneCause : Obligations.EveryErrorHasItsOneCause := by
  intro w s
  obtain ⟨t, code, data, ht, hreplies, hle, hcause, hfails⟩ := exists_reply_of_endsByCause (execute_endsByCause w s)
  exact ⟨t, code, data, ht, hreplies, hle, hcause .illegalCommand, hcause .emptyOrUnsetState, hcause .invalidKey,
    hcause .noInverse, fun e he hne => s.atFailure_of_ne_invalidKey hne ▸ hfails e he, hfails .invalidKey⟩

end Sys2Proof.Machine


/-! PROOF. The commands straight after reset (70_reset_and_hazards.md R162). R162's two lists are told apart by whether
a command reads a register: a block with every register unset (R33) has the operands of none that does, and a command
that does not has no cause of an error in any state. -/

namespace Sys2Proof.Machine

/-- The command computes from an M, V, K or R register. RDS reads their tags only, so it never lacks an operand. -/
def readsOperand : Instr → Bool
  | .rdr _ | .rdk _ | .red _ | .minv _ | .det | .adj | .kchk | .invm | .setkey | .invkey | .mulv | .mulvr => true
  | .nop | .ldm _ _ | .ldv _ _ | .ldr _ _ | .rds | .clre | .srst => false

theorem State.sameBlock.symm {s t : State} (h : s.sameBlock t) : t.sameBlock s := by
  obtain ⟨hm, hv, hk, hr, hef⟩ := h
  exact ⟨hm.symm, hv.symm, hk.symm, hr.symm, hef.symm⟩

/-- R33's table holds of the reset block on any ports. -/
theorem State.sameBlock.unconfigured {s : State} (h : s.sameBlock State.reset) : s.Unconfigured :=
  h.symm.eq_onPorts ▸ State.unconfigured_reset_onPorts _ _

theorem missing_of_unconfigured {i : Instr} {s : State} (hs : s.Unconfigured) (hi : readsOperand i = true) :
    i.Missing s := by
  obtain ⟨hmr, -, hk, -, -⟩ := hs
  cases i with
  | rdr j | red j | minv j => exact (hmr j).2
  | rdk | invkey => exact hk
  | det | adj | kchk | invm | setkey => exact ⟨0, (hmr 0).1⟩
  | mulv | mulvr => exact .inl hk
  | nop | ldm | ldv | ldr | rds | clre | srst => exact absurd hi Bool.false_ne_true

theorem exec_succeeds_of_readsOperand_false {i : Instr} (hwf : i.wellFormed = true) (hi : readsOperand i = false)
    (s : State) : Succeeds s (exec i s) := by
  obtain ⟨hset, hinv⟩ : ¬ i.Missing s ∧ ¬ i.NotInvertible s := by
    cases i with
    | nop | ldm | ldv | ldr | rds | clre | srst => exact ⟨id, id⟩
    | rdr | rdk | red | minv | det | adj | kchk | invm | setkey | invkey | mulv | mulvr => cases hi
  have hkey : ¬ i.KeyRejected s := by
    rintro ⟨rfl, -⟩
    cases hi
  exact exec_succeeds hwf hset hkey hinv

/-- Settles O9: the first list's commands are well formed and read no operand, the second list's all read one. -/
theorem commandsStraightAfterReset : Obligations.CommandsStraightAfterReset := by
  refine fun s hs => ⟨fun i v j y hj hy c hc => ?_, fun i c hc => ?_⟩
  · have hwf : c.wellFormed = true :=
      (List.all_eq_true (p := Instr.wellFormed)).1
        (by simp [Instr.wellFormed, ldvIndexOk, ldvSymbolOk, hj, hy, Config.symbols]) c hc
    have hreads : readsOperand c = false := Bool.eq_false_iff.2 ((List.any_eq_false (p := readsOperand)).1 rfl c hc)
    exact exec_succeeds_of_readsOperand_false hwf hreads s
  · have hreads : readsOperand c = true := (List.all_eq_true (p := readsOperand)).1 rfl c hc
    exact raises_of_missing (missing_of_unconfigured hs.unconfigured hreads)

end Sys2Proof.Machine


/-! PROOF. The decoder and the encoder agree (30_encoding.md sections 1 to 4), and what follows for LDV (40_control.md
R69), the one command whose operands are restricted: of the words with its opcode, exactly the joins of operands in
range are its encodings. -/

namespace Sys2Proof.Machine

/-- Settles O1: the decoder gives well-formed commands back from their encodings, and gives nothing else. -/
theorem decodeEncodeRoundTrip : Obligations.DecodeEncodeRoundTrip :=
  fun _ _ => ⟨wellFormed_and_encode_of_decode, fun ⟨hwf, hw⟩ => hw ▸ decode_encode hwf⟩

/-! ### LDV -/

theorem wellFormed_ldv_iff (idx : Fin 4) (imm : BitVec 16) :
    (Instr.ldv idx imm).wellFormed = true ↔ idx.val < 2 ∧ imm.toNat ≤ 25 := by
  rw [Instr.wellFormed, Bool.and_eq_true, ldvIndexOk, ldvSymbolOk, decide_eq_true_iff, decide_eq_true_iff]
  exact and_congr_right' Nat.lt_succ_iff

/-- A symbol's immediate reaches its register whole (30_encoding.md R55). -/
theorem immSym_toNat {imm : BitVec 16} (h : imm.toNat ≤ 25) : (immSym imm).toNat = imm.toNat := by
  rw [immSym, BitVec.toNat_setWidth]
  omega

theorem exec_ldv_of_symbol {idx : Fin 4} {imm : BitVec 16} {i : Fin 2} (hi : i.val = idx.val) (himm : imm.toNat ≤ 25)
    (s : State) : exec (.ldv idx imm) s = .next ((s.writeV i (immSym imm)).give 0 0) := by
  have hidx : idx.val < 2 := hi ▸ i.isLt
  have hsymbol : ldvSymbolOk imm = true := decide_eq_true (Nat.lt_succ_iff.2 himm)
  obtain rfl : i = ⟨idx.val, hidx⟩ := Fin.ext hi
  simp only [exec, execLdv, hidx, dif_pos, hsymbol, if_true, respond]

theorem exec_ldv_of_ill_formed {idx : Fin 4} {imm : BitVec 16} (h : 2 ≤ idx.val ∨ 26 ≤ imm.toNat) (s : State) :
    exec (.ldv idx imm) s = raiseError .illegalCommand s := by
  simp only [exec, execLdv]
  split_ifs with hidx hsymbol
  · have himm : imm.toNat < 26 := of_decide_eq_true hsymbol
    omega
  · rfl
  · rfl

/-- Settles O12: the words are the joins of LDV's opcode and operands in range; these are written, others refused. -/
theorem ldvLoadsOneSymbol : Obligations.LdvLoadsOneSymbol := by
  refine ⟨fun i imm hi himm => ?_, rejectsOthers_of_assembleFields (o := .ldv) fun i imm _ hwf => ?_, fun s i imm =>
    ⟨fun j hj himm => ?_, fun hout => ?_⟩⟩
  · exact assembleFields_eq_wordXI .ldv i imm ▸
      encodedAs_assembleFields (o := .ldv) rfl ((wellFormed_ldv_iff i imm).2 ⟨hi, himm⟩)
  · obtain ⟨hi, himm⟩ := (wellFormed_ldv_iff i imm).1 hwf
    exact ⟨i, imm, hi, himm, assembleFields_eq_wordXI .ldv i imm⟩
  · refine ⟨_, exec_ldv_of_symbol hj himm s, ⟨rfl, rfl⟩, ?_, fun n hn => ?_, rfl, rfl, rfl, rfl⟩
    · rw [State.give_v, State.writeV_v, Pair.get_set_self, Option.map_some, immSym_toNat himm]
    · rw [State.give_v, State.writeV_v, Pair.get_set_of_ne _ _ hn]
  · exact exec_ldv_of_ill_formed hout s ▸ raises_raiseError .illegalCommand s

end Sys2Proof.Machine


/-! PROOF. What a command can do. A command succeeds with one effect on the block, or it raises one error; `Effect` says
what the effect of each command is, with the operands it found. What no command does to the block is then read off the
effects: the invariant (10_state.md R32), the writing half of the access matrix (R35), and the lifecycles of KV (R23)
and of the error flags (R26). -/

namespace Sys2Proof.Machine

/-! ### The effect of each command -/

/-- `Effect s i u`: when `i` succeeds in `s` it leaves the block of `u`, before its response. -/
inductive Effect (s : State) : Instr → State → Prop
  | nop : Effect s .nop s
  | ldm (i : Fin 4) (imm : BitVec 16) : Effect s (.ldm i imm) (s.writeM i (immEntry imm))
  | ldv {idx : Fin 4} {imm : BitVec 16} (i : Fin 2) (hi : i.val = idx.val) (himm : imm.toNat ≤ 25) :
      Effect s (.ldv idx imm) (s.writeV i (immSym imm))
  | ldr (i : Fin 4) (imm : BitVec 16) : Effect s (.ldr i imm) (s.writeR i (immResult imm))
  | rdr {i : Fin 4} {x : Result} (hx : s.r.get i = some x) : Effect s (.rdr i) s
  | rdk (i : Fin 4) {q : Quad Entry} (hk : s.k = some q) : Effect s (.rdk i) s
  | rds : Effect s .rds s
  | clre : Effect s .clre s.clearErrors
  | srst : Effect s .srst s.resetBlock
  | red {i : Fin 4} {x : Result} (hx : s.r.get i = some x) :
      Effect s (.red i) (s.writeR i (toResult (reduce x.toInt)))
  | minv {i : Fin 4} {x : Result} {b : Int} (hx : s.r.get i = some x) (hb : modInverse x.toInt = some b) :
      Effect s (.minv i) (s.writeR i (toResult b))
  | det {q : Quad Entry} (hm : s.mHolds q) : Effect s .det (s.writeR 0 (toResult (detOf q)))
  | adj {q : Quad Entry} (hm : s.mHolds q) : Effect s .adj (s.writeRAll ((adjugate (matrixOf q)).map toResult))
  | kchk {q : Quad Entry} (hm : s.mHolds q) : Effect s .kchk s
  | invm {q : Quad Entry} {n : Quad Int} (hm : s.mHolds q) (hn : inverseKeyMod (matrixOf q) = some n) :
      Effect s .invm (s.writeRAll (n.map toResult))
  | setkey {q : Quad Entry} (hm : s.mHolds q) (hvalid : isValidKey (matrixOf q) = true) :
      Effect s .setkey (s.writeK q)
  | invkey {q : Quad Entry} {n : Quad Int} (hk : s.k = some q) (hn : inverseKeyMod (matrixOf q) = some n) :
      Effect s .invkey (s.writeK (n.map toEntry))
  | mulv {q : Quad Entry} {p : Pair Sym} (hk : s.k = some q) (hv : s.vHolds p) :
      Effect s .mulv (s.writeRLow ((mulvec (matrixOf q) (columnOf p)).map toResult))
  | mulvr {q : Quad Entry} {p : Pair Sym} (hk : s.k = some q) (hv : s.vHolds p) :
      Effect s .mulvr (s.writeRLow (((mulvec (matrixOf q) (columnOf p)).map reduce).map toResult))

/-- The two ways a command ends. Only SETKEY raises InvalidKey. -/
inductive Ends (s : State) (i : Instr) : Answer → Prop
  | success {u : State} {d : Word} (heffect : Effect s i u) : Ends s i (respond d u)
  | failure {e : ErrorKind} (hsetkey : e = .invalidKey → i = .setkey) : Ends s i (raiseError e (s.atFailure e))

theorem State.mHolds_of_readM {s : State} {q : Quad Entry} (h : s.readM = some q) : s.mHolds q :=
  (Quad.allSet_eq_some s.m q).1 h

theorem State.vHolds_of_readV {s : State} {p : Pair Sym} (h : s.readV = some p) : s.vHolds p :=
  (Pair.allSet_eq_some s.v p).1 h

/-- Every command ends in one of the two ways, whatever the state and the operands. -/
theorem exec_ends (i : Instr) (s : State) : Ends s i (exec i s) := by
  cases i with
  | nop => exact .success .nop
  | ldm i imm => exact .success (.ldm i imm)
  | ldr i imm => exact .success (.ldr i imm)
  | rds => exact .success .rds
  | clre => exact .success .clre
  | srst => exact .success .srst
  | ldv idx imm =>
    simp only [exec, execLdv]
    split_ifs with hidx hsymbol
    · exact .success (.ldv ⟨idx.val, hidx⟩ rfl (Nat.lt_succ_iff.1 (of_decide_eq_true hsymbol)))
    · exact .failure nofun
    · exact .failure nofun
  | rdr =>
    simp only [exec, execRdr]
    split
    · exact .failure nofun
    · next hx => exact .success (.rdr hx)
  | rdk i =>
    simp only [exec, execRdk]
    split
    · exact .failure nofun
    · next hk => exact .success (.rdk i hk)
  | red =>
    simp only [exec, execRed]
    split
    · exact .failure nofun
    · next hx => exact .success (.red hx)
  | minv =>
    simp only [exec, execMinv]
    split
    · exact .failure nofun
    · next hx =>
      split
      · exact .failure nofun
      · next hb => exact .success (.minv hx hb)
  | det =>
    simp only [exec, execDet]
    split
    · exact .failure nofun
    · next hm => exact .success (.det (State.mHolds_of_readM hm))
  | adj =>
    simp only [exec, execAdj]
    split
    · exact .failure nofun
    · next hm => exact .success (.adj (State.mHolds_of_readM hm))
  | kchk =>
    simp only [exec, execKchk]
    split
    · exact .failure nofun
    · next hm => exact .success (.kchk (State.mHolds_of_readM hm))
  | invm =>
    simp only [exec, execInvm]
    split
    · exact .failure nofun
    · next hm =>
      split
      · exact .failure nofun
      · next hn => exact .success (.invm (State.mHolds_of_readM hm) hn)
  | setkey =>
    simp only [exec, execSetkey]
    split
    · exact .failure nofun
    · next hm =>
      split_ifs with hvalid
      · exact .success (.setkey (State.mHolds_of_readM hm) hvalid)
      · exact .failure fun _ => rfl
  | invkey =>
    simp only [exec, execInvkey]
    split
    · exact .failure nofun
    · next hk =>
      split
      · exact .failure nofun
      · next hn => exact .success (.invkey hk hn)
  | mulv =>
    simp only [exec, execMulv]
    split
    · next hk hv => exact .success (.mulv hk (State.vHolds_of_readV hv))
    · exact .failure nofun
  | mulvr =>
    simp only [exec, execMulvr]
    split
    · next hk hv => exact .success (.mulvr hk (State.vHolds_of_readV hv))
    · exact .failure nofun

theorem failsWith_of_raiseError {e : ErrorKind} {s t : State} (h : raiseError e s = .next t) : FailsWith e s t := by
  obtain ⟨u, hu, hfails⟩ := raises_raiseError e s
  cases h.symm.trans hu
  exact hfails

/-- An illegal word fails like a command does. -/
theorem failsWith_of_decode_error {w : Word} {d : DecodeError} {s t : State} (h : decode w = .error d)
    (ht : execute w s = .next t) : FailsWith .illegalCommand (s.atFailure .illegalCommand) t :=
  failsWith_of_raiseError (execute_of_decode_error h s ▸ ht)

/-- The state a command leaves: its effect and a success, or one error. -/
theorem cases_of_exec {i : Instr} {s t : State} (h : exec i s = .next t) :
    (∃ u d, Effect s i u ∧ t = u.give 0 d) ∨
      ∃ e, (e = .invalidKey → i = .setkey) ∧ FailsWith e (s.atFailure e) t := by
  have hends := exec_ends i s
  generalize exec i s = a at h hends
  cases hends with
  | success heffect => exact .inl ⟨_, _, heffect, respond_eq_next h⟩
  | failure hsetkey => exact .inr ⟨_, hsetkey, failsWith_of_raiseError h⟩


/-! ### What each command leaves alone -/

section
variable {s u : State} {i : Instr}

/-- No effect touches a port, so the response after it is the command's one reply. -/
theorem Effect.replies_give (h : Effect s i u) (d : Word) : Replies s (u.give 0 d) 0 d := by
  cases h <;> exact ⟨rfl, rfl⟩

theorem Effect.m_get_of_not_writesM (h : Effect s i u) {j : Fin 4} (hj : ¬ i.writesM j) :
    u.m.get j = s.m.get j := by
  cases h with
  | ldm => exact Quad.get_set_of_ne _ _ hj
  | srst => exact absurd trivial hj
  | nop | ldv | ldr | rdr | rdk | rds | clre | red | minv | det | adj | kchk | invm | setkey | invkey | mulv
  | mulvr => rfl

theorem Effect.v_get_of_not_writesV (h : Effect s i u) {j : Fin 2} (hj : ¬ i.writesV j) :
    u.v.get j = s.v.get j := by
  cases h with
  | ldv n hn => exact Pair.get_set_of_ne _ _ fun hjn => hj (hjn ▸ hn)
  | srst => exact absurd trivial hj
  | nop | ldm | ldr | rdr | rdk | rds | clre | red | minv | det | adj | kchk | invm | setkey | invkey | mulv
  | mulvr => rfl

theorem Effect.k_eq_of_not_writesK (h : Effect s i u) (hk : ¬ i.writesK) : u.k = s.k := by
  cases h with
  | setkey | invkey | srst => exact absurd trivial hk
  | nop | ldm | ldv | ldr | rdr | rdk | rds | clre | red | minv | det | adj | kchk | invm | mulv | mulvr => rfl

theorem Effect.r_get_of_not_writesR (h : Effect s i u) {j : Fin 4} (hj : ¬ i.writesR j) :
    u.r.get j = s.r.get j := by
  cases h with
  | ldr | red | minv | det => exact Quad.get_set_of_ne _ _ hj
  | adj | invm | srst => exact absurd trivial hj
  | mulv | mulvr =>
    match j with
    | 0 => exact absurd (.inl rfl) hj
    | 1 => exact absurd (.inr rfl) hj
    | 2 | 3 => rfl
  | nop | ldm | ldv | rdr | rdk | rds | clre | kchk | setkey | invkey => rfl

theorem Effect.ef_eq_of_not_clearsEF (h : Effect s i u) (hef : ¬ i.clearsEF) : u.ef = s.ef := by
  cases h with
  | clre | srst => exact absurd trivial hef
  | nop | ldm | ldv | ldr | rdr | rdk | rds | red | minv | det | adj | kchk | invm | setkey | invkey | mulv
  | mulvr => rfl

end

/-- Dropping the key leaves everything but the key. -/
theorem State.atFailure_eq (s : State) (e : ErrorKind) : s.atFailure e = { s with k := (s.atFailure e).k } := by
  cases e <;> rfl

theorem State.k_atFailure (s : State) (e : ErrorKind) :
    (s.atFailure e).k = if e = .invalidKey then none else s.k := by
  cases e <;> rfl

/-- What a failure leaves: everything but the key, which InvalidKey drops, and the error's own flag. -/
theorem FailsWith.of_atFailure {e : ErrorKind} {s t : State} (h : FailsWith e (s.atFailure e) t) :
    t.m = s.m ∧ t.v = s.v ∧ t.k = (if e = .invalidKey then none else s.k) ∧ t.r = s.r ∧
      (∀ f, t.ef.get f = (decide (f = e) || s.ef.get f)) ∧ Replies s t e.code 0 := by
  rw [← State.k_atFailure]
  rw [State.atFailure_eq] at h
  exact h

/-- Settles O45: an effect leaves what the matrix does not mark, and so does a failure, which writes no register but the
KV that SETKEY is marked for. -/
theorem commandsWriteOnlyWhatTheMatrixMarks : Obligations.CommandsWriteOnlyWhatTheMatrixMarks := by
  intro i s t ht
  obtain ⟨u, d, heffect, rfl⟩ | ⟨e, hsetkey, hfails⟩ := cases_of_exec ht
  · refine ⟨fun j => heffect.m_get_of_not_writesM, fun j => heffect.v_get_of_not_writesV,
      heffect.k_eq_of_not_writesK, fun j => heffect.r_get_of_not_writesR, fun hef e he => ?_⟩
    rw [State.give_ef, heffect.ef_eq_of_not_clearsEF hef, he]
  · obtain ⟨hm, hv, hk, hr, hef, -⟩ := hfails.of_atFailure
    refine ⟨fun j _ => by rw [hm], fun j _ => by rw [hv], fun hnot => ?_, fun j _ => by rw [hr], fun _ f hf => ?_⟩
    · have hne : e ≠ .invalidKey := fun he => hnot (hsetkey he ▸ trivial)
      rw [hk, if_neg hne]
    · rw [hef, hf, Bool.or_true]

/-! ### The invariant -/

/-- R32 (b). -/
def SymbolsInRange (s : State) : Prop := ∀ (i : Fin 2) (x : Sym), s.v.get i = some x → x.toNat ≤ 25

/-- R32 (e) and (f). -/
def KeyInForm (s : State) : Prop := ∀ q : Quad Entry, s.k = some q →
  isValidKey (matrixOf q) = true ∨ ∀ i : Fin 4, 0 ≤ (q.get i).toInt ∧ (q.get i).toInt ≤ 25

/-- R60 and R61. -/
def ResponsesInForm (s : State) : Prop := ∀ a ∈ s.responses, a.code.toNat ≤ 4 ∧ (a.code ≠ 0 → a.data = 0)

theorem State.inv_iff (s : State) : s.Inv ↔ SymbolsInRange s ∧ KeyInForm s ∧ ResponsesInForm s := Iff.rfl

/-- LDV alone writes V, and it writes a symbol. -/
theorem Effect.symbolsInRange {s u : State} {i : Instr} (h : Effect s i u) (hs : SymbolsInRange s) :
    SymbolsInRange u := by
  cases h with
  | ldv n hn himm =>
    intro j x hx
    by_cases hj : j = n
    · subst hj
      rw [State.writeV_v, Pair.get_set_self] at hx
      cases hx
      rwa [immSym_toNat himm]
    · rw [State.writeV_v, Pair.get_set_of_ne _ _ hj] at hx
      exact hs j x hx
  | srst => exact Fin.forall_fin_two.2 ⟨nofun, nofun⟩
  | nop | ldm | ldr | rdr | rdk | rds | clre | red | minv | det | adj | kchk | invm | setkey | invkey | mulv
  | mulvr => exact hs

/-- SETKEY writes a valid key, INVKEY one with entries in 0..25. -/
theorem Effect.keyInForm {s u : State} {i : Instr} (h : Effect s i u) (hs : KeyInForm s) : KeyInForm u := by
  cases h with
  | setkey hm hvalid =>
    intro q hq
    cases hq
    exact .inl hvalid
  | invkey hk hn =>
    intro q hq
    cases hq
    exact .inr fun j => toInt_get_of_inverseKeyMod hn j ▸ inverseKeyMod_bounds hn j
  | srst => exact nofun
  | nop | ldm | ldv | ldr | rdr | rdk | rds | clre | red | minv | det | adj | kchk | invm | mulv | mulvr => exact hs

/-- One more response in form keeps them all in form. -/
theorem ResponsesInForm.of_replies {s t : State} {c : Code} {d : Word} (hs : ResponsesInForm s)
    (h : Replies s t c d) (hcode : c.toNat ≤ 4) (hdata : c ≠ 0 → d = 0) : ResponsesInForm t := by
  intro a ha
  rw [h.1, List.mem_append, List.mem_singleton] at ha
  obtain hold | rfl := ha
  · exact hs a hold
  · exact ⟨hcode, hdata⟩

theorem FailsWith.inv {e : ErrorKind} {s t : State} (h : FailsWith e (s.atFailure e) t) (hs : s.Inv) : t.Inv := by
  obtain ⟨-, hv, hk, -, -, hreplies⟩ := h.of_atFailure
  obtain ⟨hsymbols, hkey, hresponses⟩ := s.inv_iff.1 hs
  refine t.inv_iff.2 ⟨fun i x hx => hsymbols i x (hv ▸ hx), fun q hq => hkey q ?_,
    hresponses.of_replies hreplies e.code_le_four fun _ => rfl⟩
  rw [hk] at hq
  split_ifs at hq
  exact hq

theorem exec_inv {i : Instr} {s t : State} (hs : s.Inv) (ht : exec i s = .next t) : t.Inv := by
  obtain ⟨u, d, heffect, rfl⟩ | ⟨e, -, hfails⟩ := cases_of_exec ht
  · obtain ⟨hsymbols, hkey, hresponses⟩ := s.inv_iff.1 hs
    exact ⟨heffect.symbolsInRange hsymbols, heffect.keyInForm hkey,
      hresponses.of_replies (heffect.replies_give d) (by decide) fun hne => absurd rfl hne⟩
  · exact hfails.inv hs

theorem execute_inv {w : Word} {s t : State} (hs : s.Inv) (ht : execute w s = .next t) : t.Inv := by
  cases h : decode w with
  | ok i => exact exec_inv hs (execute_of_decode_ok h s ▸ ht)
  | error d => exact (failsWith_of_decode_error h ht).inv hs

/-- A reset leaves every register unset. -/
theorem State.inv_resetBlock {s : State} (hs : s.Inv) : s.resetBlock.Inv := by
  obtain ⟨-, -, hresponses⟩ := s.inv_iff.1 hs
  exact ⟨Fin.forall_fin_two.2 ⟨nofun, nofun⟩, nofun, hresponses⟩

/-- Settles O41: a step is idle, executes a word or resets the block. -/
theorem everyStepKeepsTheInvariant : Obligations.EveryStepKeepsTheInvariant := by
  intro s t hs ht
  obtain ⟨-, hport⟩ | ⟨x, rest, -, hport⟩ := s.takeInput_eq
  · rw [step, hport] at ht
    cases ht
    exact hs
  · rw [step, hport] at ht
    have htaken : State.Inv { s with inputs := rest } := hs
    cases x with
    | command w => exact execute_inv htaken ht
    | reset | resetDuring => cases ht; exact State.inv_resetBlock htaken

/-- Settles O42: after reset nothing is set and nothing has been answered. -/
theorem resetMeetsTheInvariant : Obligations.ResetMeetsTheInvariant :=
  ⟨Fin.forall_fin_two.2 ⟨nofun, nofun⟩, nofun, nofun⟩

/-! ### The key and the error flags over time -/

/-- Settles O47: SETKEY's effect is the one that makes a key where there was none, SRST's the one that drops it; of the
failures only SETKEY's InvalidKey changes the key. -/
theorem onlySetkeyMakesAKey : Obligations.OnlySetkeyMakesAKey := by
  intro i s t ht
  obtain ⟨u, d, heffect, rfl⟩ | ⟨e, hsetkey, hfails⟩ := cases_of_exec ht
  · rw [State.give_k]
    cases heffect with
    | setkey hm hvalid => exact ⟨fun _ _ => ⟨rfl, _, hm, rfl, hvalid⟩, fun _ hnone => absurd hnone nofun⟩
    | invkey hk => exact ⟨fun hnone _ => absurd (hk.symm.trans hnone) nofun, fun _ hnone => absurd hnone nofun⟩
    | srst => exact ⟨fun _ hsome => absurd rfl hsome, fun _ _ => .inl rfl⟩
    | nop | ldm | ldv | ldr | rdr | rdk | rds | clre | red | minv | det | adj | kchk | invm | mulv | mulvr =>
      exact ⟨fun hnone hsome => absurd hnone hsome, fun hsome hnone => absurd hnone hsome⟩
  · obtain ⟨-, -, hk, -, -, hreplies⟩ := hfails.of_atFailure
    rw [hk]
    split_ifs with he
    · subst he
      exact ⟨fun _ hsome => absurd rfl hsome, fun _ _ => .inr ⟨hsetkey rfl, hreplies⟩⟩
    · exact ⟨fun hnone hsome => absurd hnone hsome, fun hsome hnone => absurd hnone hsome⟩

/-- A state has one last response. -/
theorem Replies.inj {s t : State} {c c' : Code} {d d' : Word} (h : Replies s t c d) (h' : Replies s t c' d') :
    c = c' ∧ d = d' := by
  have hlast := h.1.symm.trans h'.1
  rw [List.append_cancel_left_eq, List.cons.injEq, Response.mk.injEq] at hlast
  exact hlast.1

/-- After a failure the flags set are the old ones and the failure's own. -/
theorem FailsWith.get_ef_iff {e : ErrorKind} {s t : State} (h : FailsWith e (s.atFailure e) t) (f : ErrorKind) :
    t.ef.get f = true ↔ s.ef.get f = true ∨ Replies s t f.code 0 := by
  obtain ⟨-, -, -, -, hef, hreplies⟩ := h.of_atFailure
  have hcause : Replies s t f.code 0 ↔ f = e :=
    ⟨fun hf => ErrorKind.code_inj.1 (hf.inj hreplies).1, fun hf => hf ▸ hreplies⟩
  rw [hef, hcause, Bool.or_eq_true, decide_eq_true_iff, or_comm]

/-- A command sets the flag of the error it raises, and CLRE and SRST apart it clears none. -/
theorem exec_get_ef_iff {i : Instr} {s t : State} (ht : exec i s = .next t) (hef : ¬ i.clearsEF) (f : ErrorKind) :
    t.ef.get f = true ↔ s.ef.get f = true ∨ Replies s t f.code 0 := by
  obtain ⟨u, d, heffect, rfl⟩ | ⟨e, -, hfails⟩ := cases_of_exec ht
  · have hnot : ¬ Replies s (u.give 0 d) f.code 0 := fun hf => f.code_ne_zero (hf.inj (heffect.replies_give d)).1
    rw [State.give_ef, heffect.ef_eq_of_not_clearsEF hef, or_iff_left hnot]
  · exact hfails.get_ef_iff f

theorem clearsEF_iff (i : Instr) : i.clearsEF ↔ i = .clre ∨ i = .srst := by
  cases i <;> simp [Instr.clearsEF]

/-- Settles O48: an illegal word is a failure like a command's; CLRE and SRST clear every flag. -/
theorem errorFlagsAreSticky : Obligations.ErrorFlagsAreSticky := by
  intro w s t e ht
  refine ⟨fun hclear => ?_, fun hclre hsrst => ?_⟩
  · obtain h | h := hclear
    · cases (execute_of_decode_ok h s).symm.trans ht
      exact s.get_clearErrors_ef e
    · cases (execute_of_decode_ok h s).symm.trans ht
      cases e <;> rfl
  · cases h : decode w with
    | ok i =>
      have hef : ¬ i.clearsEF := by
        rw [clearsEF_iff]
        rintro (rfl | rfl)
        · exact hclre h
        · exact hsrst h
      exact exec_get_ef_iff (execute_of_decode_ok h s ▸ ht) hef e
    | error d => exact (failsWith_of_decode_error h ht).get_ef_iff e

/-! ### Reading twice -/

/-- A read command's effect is to keep the block. -/
theorem Effect.eq_of_read {s u : State} {i : Instr} {j : Fin 4} (h : Effect s i u)
    (hi : i ∈ [Instr.rdr j, .rdk j, .rds, .kchk]) : u = s := by
  fin_cases hi <;> cases h <;> rfl

/-- Settles O49: the block is kept, and the same block answers the same (R30). -/
theorem readCommandsRepeat : Obligations.ReadCommandsRepeat := by
  intro s t data i j hi ht hreplies
  have hblock : t.sameBlock s := by
    obtain ⟨u, d, heffect, rfl⟩ | ⟨e, -, hfails⟩ := cases_of_exec ht
    · exact heffect.eq_of_read hi ▸ u.sameBlock_give 0 d
    · obtain ⟨-, -, -, -, -, hfailure⟩ := hfails.of_atFailure
      exact absurd (hfailure.inj hreplies).1 e.code_ne_zero
  obtain ⟨t', c, d, ht', hreplies', hagain⟩ := exec_repliesAlike i s t.inputs t.responses
  cases ht.symm.trans ht'
  obtain ⟨rfl, rfl⟩ := hreplies.inj hreplies'
  rw [← hblock.symm.eq_onPorts] at hagain
  exact ⟨hblock, _, hagain, ⟨rfl, rfl⟩, hblock⟩

end Sys2Proof.Machine


/-! PROOF. How many words are legal (30_encoding.md section 4). A legal word joins an opcode and operands the operation
takes, and different operands make different words; so the words of some operations are as many as their operands, one
for format Z, four for format X, and for format XI all of both fields, except that LDV takes 2 indices and 26 symbols. -/

namespace Sys2Proof.Machine

/-- The operands an operation takes: they fit its format, and for LDV they are in range. -/
def operandsOf (o : Op) : Finset (Fin 4 × BitVec 16) :=
  Finset.univ.filter fun x => fieldsFit o.format x.1 x.2 = true ∧ (o.withOperands x.1 x.2).wellFormed = true

theorem mem_operandsOf {o : Op} {idx : Fin 4} {imm : BitVec 16} :
    (idx, imm) ∈ operandsOf o ↔ fieldsFit o.format idx imm = true ∧ (o.withOperands idx imm).wellFormed = true := by
  simp [operandsOf]

/-- The legal words of some operations. -/
def wordsOf (ops : Finset Op) : Finset Word :=
  (ops.sigma operandsOf).image fun x => assembleFields x.1.code x.2.1 x.2.2

theorem mem_wordsOf {ops : Finset Op} {w : Word} : w ∈ wordsOf ops ↔ ∃ i, decode w = .ok i ∧ i.op ∈ ops := by
  simp only [wordsOf, Finset.mem_image, Finset.mem_sigma]
  constructor
  · rintro ⟨⟨o, idx, imm⟩, ⟨ho, hmem⟩, rfl⟩
    obtain ⟨hfit, hwf⟩ := mem_operandsOf.1 hmem
    obtain ⟨hop, -, -⟩ := o.fields_withOperands hfit
    exact ⟨o.withOperands idx imm, (encodedAs_assembleFields hfit hwf _).2 rfl, hop.symm ▸ ho⟩
  · rintro ⟨i, hi, ho⟩
    obtain ⟨hwf, hw⟩ := wellFormed_and_encode_of_decode hi
    refine ⟨⟨i.op, i.idx, i.imm⟩, ⟨ho, mem_operandsOf.2 ⟨i.fieldsFit_op, ?_⟩⟩, hw⟩
    rwa [Op.withOperands_of_instr]

/-- A word's operation and operands are read back from its fields, so different ones make different words. -/
theorem card_wordsOf (ops : Finset Op) : (wordsOf ops).card = ∑ o ∈ ops, (operandsOf o).card := by
  rw [wordsOf, Finset.card_image_of_injOn, Finset.card_sigma]
  rintro ⟨o, idx, imm⟩ - ⟨o', idx', imm'⟩ - hw
  have hop := congrArg fieldOp hw
  have hidx := congrArg fieldIdx hw
  have himm := congrArg fieldImm hw
  simp only [fieldOp_assembleFields, fieldIdx_assembleFields, fieldImm_assembleFields] at hop hidx himm
  obtain rfl := Op.code_toNat_inj (congrArg BitVec.toNat hop)
  rw [hidx, himm]

/-! ### The operands of each operation -/

theorem operandsOf_formatZ {o : Op} (h : o.format = .z) : operandsOf o = {(0, 0)} := by
  have hldv : o ≠ .ldv := by rintro rfl; cases h
  ext ⟨idx, imm⟩
  simp [mem_operandsOf, h, fieldsFit, Op.wellFormed_withOperands hldv]

theorem operandsOf_formatX {o : Op} (h : o.format = .x) : operandsOf o = Finset.univ ×ˢ {0} := by
  have hldv : o ≠ .ldv := by rintro rfl; cases h
  ext ⟨idx, imm⟩
  simpa [mem_operandsOf, h, fieldsFit, Op.wellFormed_withOperands hldv] using eq_comm

theorem operandsOf_formatXI {o : Op} (h : o.format = .xi) (hldv : o ≠ .ldv) : operandsOf o = Finset.univ := by
  ext ⟨idx, imm⟩
  simp [mem_operandsOf, h, fieldsFit, Op.wellFormed_withOperands hldv]

/-- The immediates that are symbols. -/
def symbolImms : Finset (BitVec 16) := (Finset.range 26).image (BitVec.ofNat 16)

theorem mem_symbolImms {imm : BitVec 16} : imm ∈ symbolImms ↔ imm.toNat ≤ 25 := by
  simp only [symbolImms, Finset.mem_image, Finset.mem_range]
  constructor
  · rintro ⟨n, hn, rfl⟩
    rw [BitVec.toNat_ofNat]
    omega
  · intro h
    exact ⟨imm.toNat, by omega, by rw [BitVec.ofNat_toNat, BitVec.setWidth_eq]⟩

theorem operandsOf_ldv : operandsOf .ldv = {0, 1} ×ˢ symbolImms := by
  ext ⟨idx, imm⟩
  have hidx : idx.val < 2 ↔ idx ∈ ({0, 1} : Finset (Fin 4)) := by revert idx; decide
  rw [mem_operandsOf, Finset.mem_product, mem_symbolImms, ← hidx]
  exact (and_iff_right rfl).trans (wellFormed_ldv_iff idx imm)

/-- How many words each operation has (30_encoding.md section 4). -/
def wordCount : Op → Nat
  | .ldm | .ldr => 262144
  | .ldv => 52
  | .rdr | .rdk | .red | .minv => 4
  | .nop | .rds | .clre | .srst | .det | .adj | .kchk | .invm | .setkey | .invkey | .mulv | .mulvr => 1

theorem card_operandsOf (o : Op) : (operandsOf o).card = wordCount o := by
  cases o with
  | nop | rds | clre | srst | det | adj | kchk | invm | setkey | invkey | mulv | mulvr =>
    rw [operandsOf_formatZ rfl]; rfl
  | rdr | rdk | red | minv => rw [operandsOf_formatX rfl]; rfl
  | ldm | ldr =>
    rw [operandsOf_formatXI rfl (by decide), Finset.card_univ, Fintype.card_prod, Fintype.card_fin,
      Fintype.card_congr BitVec.equivFin.toEquiv, Fintype.card_fin]
    rfl
  | ldv => rw [operandsOf_ldv]; rfl

/-! ### The counts -/

/-- The 19 operations of R56. -/
def allOps : Finset Op :=
  {.nop, .ldm, .ldv, .ldr, .rdr, .rdk, .rds, .clre, .srst, .red, .minv, .det, .adj, .kchk, .invm, .setkey, .invkey,
    .mulv, .mulvr}

theorem mem_allOps (o : Op) : o ∈ allOps := by
  cases o <;> decide

/-- The words of the operations with some property are counted by operation. -/
theorem card_decode_eq_ok (P : Op → Prop) [DecidablePred P] :
    Nat.card { w : Word // ∃ i, decode w = .ok i ∧ P i.op } = ∑ o ∈ allOps with P o, wordCount o := by
  rw [Nat.subtype_card (wordsOf (allOps.filter P)) fun w => by simp [mem_wordsOf, mem_allOps], card_wordsOf]
  exact Finset.sum_congr rfl fun o _ => card_operandsOf o

/-- Settles O3: each of the five counts is a sum over the operations. -/
theorem legalWordCount : Obligations.LegalWordCount := by
  refine ⟨?_, ?_, ?_, ?_, ?_⟩
  · exact (card_decode_eq_ok (·.format = .z)).trans (by decide)
  · exact (card_decode_eq_ok (·.format = .x)).trans (by decide)
  · exact (card_decode_eq_ok fun o => o = .ldm ∨ o = .ldr).trans (by decide)
  · exact (card_decode_eq_ok (· = .ldv)).trans (by decide)
  · simpa only [and_true] using (card_decode_eq_ok fun _ => True).trans (by decide)

/-- Settles O4: nine words decoded. -/
theorem wordsOfTheSpecDecode : Obligations.WordsOfTheSpecDecode := by
  unfold Obligations.WordsOfTheSpecDecode
  decide

end Sys2Proof.Machine


/-! PROOF. The adjugate and the product fit a result register (42_matrix_ops.md R94, R95). -/

namespace Sys2Proof.Machine

/-- Settles O27: the adjugate's law on both sides; negating -32768 is what its bound allows beyond 16 bits. -/
theorem adjugateTimesMatrixIsDeterminant : Obligations.AdjugateTimesMatrixIsDeterminant := by
  refine ⟨fun _ _ _ _ => rfl, fun q => ?_, fun q i => ?_⟩
  · obtain ⟨hright0, hright1⟩ := mulvec_adjugate q
    exact ⟨hright0, hright1, adjugate_mulvec q⟩
  · obtain ⟨hlo, hhi⟩ := adjugate_bounds q i
    exact ⟨hlo, hhi, toInt_toResult (by omega) (by omega)⟩

/-- An entry times a symbol is at most 25 entries in magnitude. -/
theorem entry_mul_symbol_bounds (x : Entry) {n : Nat} (hn : n ≤ 25) :
    -819200 ≤ x.toInt * n ∧ x.toInt * n ≤ 819175 := by
  obtain ⟨hlo, hhi⟩ := entry_bounds x
  constructor
  · calc (-819200 : Int)
        ≤ -32768 * n := by omega
      _ ≤ x.toInt * n := Int.mul_le_mul_of_nonneg_right hlo (by omega)
  · calc x.toInt * n
        ≤ 32767 * n := Int.mul_le_mul_of_nonneg_right hhi (by omega)
      _ ≤ 819175 := by omega

/-- Settles O28: each row is two such products, and R95's bound is twice theirs. -/
theorem mulvecIsTwoSumsOfProducts : Obligations.MulvecIsTwoSumsOfProducts := by
  intro q p h0 h1
  refine ⟨rfl, fun i => ?_⟩
  have hrow (x y : Entry) : -1638400 ≤ x.toInt * p.e0.toNat + y.toInt * p.e1.toNat ∧
      x.toInt * p.e0.toNat + y.toInt * p.e1.toNat ≤ 1638350 := by
    have hx := entry_mul_symbol_bounds x h0
    have hy := entry_mul_symbol_bounds y h1
    omega
  have hbounds : -1638400 ≤ (mulvec (matrixOf q) (columnOf p)).get i ∧
      (mulvec (matrixOf q) (columnOf p)).get i ≤ 1638350 := by
    match i with
    | 0 => exact hrow q.e0 q.e1
    | 1 => exact hrow q.e2 q.e3
  obtain ⟨hlo, hhi⟩ := hbounds
  exact ⟨hlo, hhi, toInt_toResult (by omega) (by omega)⟩

end Sys2Proof.Machine


/-! PROOF. The step (20_memory.md R46, 60_exceptions.md section 5). A step takes the oldest input and, when it is a
word, executes it; executing a word always gives one response, so a run over a list of words gives one for each. -/

namespace Sys2Proof.Machine

theorem step_of_inputs_nil {s : State} (h : s.inputs = []) : step s = .next s := by
  simp only [step, State.takeInput, h]

theorem step_of_inputs_command {s : State} {w : Word} {rest : List HostInput} (h : s.inputs = .command w :: rest) :
    step s = execute w { s with inputs := rest } := by
  simp only [step, State.takeInput, h]

/-- Settles O5: the step executes the oldest word, and a word that does not decode is IllegalCommand. -/
theorem stepRunsTheDecodedCommand : Obligations.StepRunsTheDecodedCommand := by
  intro s w rest h
  have hstep := step_of_inputs_command h
  exact ⟨hstep, fun i hi => hstep.trans (execute_of_decode_ok hi _), fun e he =>
    hstep.trans (execute_of_decode_error he _) ▸ raises_raiseError .illegalCommand _⟩

/-- Settles O6: the port is empty at reset. -/
theorem idleStepKeepsTheState : Obligations.IdleStepKeepsTheState :=
  ⟨fun _ => step_of_inputs_nil, step_of_inputs_nil rfl⟩

theorem step_of_inputs_resetDuring {s : State} {w : Word} {rest : List HostInput}
    (h : s.inputs = .resetDuring w :: rest) : step s = .next (State.reset.onPorts rest s.responses) := by
  simp only [step, State.takeInput, h]
  rfl

/-- Settles O7: both events of `rst` and SRST leave the reset block; SRST alone responds. -/
theorem resetInputAndSrstAgree : Obligations.ResetInputAndSrstAgree := by
  intro s rest w
  refine ⟨fun h => ?_, _, exec_srst s, State.reset.sameBlock_onPorts _ _ |>.symm, rfl, rfl⟩
  have hstep : step s = .next (State.reset.onPorts rest s.responses) :=
    h.elim step_of_inputs_reset step_of_inputs_resetDuring
  exact ⟨_, hstep, (State.reset.sameBlock_onPorts _ _).symm, rfl, rfl⟩

/-- Settles O44: the table of R61. -/
theorem errorCodesAreOneToFour : Obligations.ErrorCodesAreOneToFour :=
  ⟨rfl, rfl, rfl, rfl⟩

/-- Settles O50: the first word's step gives one response and leaves the others on the port. -/
theorem everyWordGetsOneResponse : Obligations.EveryWordGetsOneResponse := by
  intro ws
  induction ws with
  | nil => exact fun s hport => ⟨s, [], rfl, hport, (List.append_nil _).symm, rfl⟩
  | cons w ws ih =>
    intro s hport
    obtain ⟨t, code, data, ht, ⟨hresponse, hrest⟩, -⟩ :=
      execute_repliesAlike w { s with inputs := ws.map .command } [] []
    obtain ⟨u, answers, hrun, hempty, hresponses, hlength⟩ := ih t hrest
    refine ⟨u, ⟨code, data⟩ :: answers, ?_, hempty, ?_, congrArg (· + 1) hlength⟩
    · exact (run_succ_of_step ((step_of_inputs_command hport).trans ht)).trans hrun
    · rw [hresponses, hresponse, List.append_assoc, List.singleton_append]

end Sys2Proof.Machine


/-! PROOF. The reading half of the access matrix (10_state.md R35). A command takes its branch by the operands it reads,
so in two states that agree on them it ends alike: both answers are the same success, written from the same operands, or
the same error. -/

namespace Sys2Proof.Machine

/-- The two states agree on every register the command is marked to write. -/
def WrittenAlike (i : Instr) (t₁ t₂ : State) : Prop :=
  (∀ j : Fin 4, i.writesM j → t₁.m.get j = t₂.m.get j) ∧ (∀ j : Fin 2, i.writesV j → t₁.v.get j = t₂.v.get j) ∧
    (i.writesK → t₁.k = t₂.k) ∧ ∀ j : Fin 4, i.writesR j → t₁.r.get j = t₂.r.get j

/-- The two answers are one reply each, the same one, and after a success what was written is the same. -/
def EndsAlike (i : Instr) (s₁ s₂ : State) (a₁ a₂ : Answer) : Prop :=
  ∃ t₁ t₂ code data, a₁ = .next t₁ ∧ a₂ = .next t₂ ∧ Replies s₁ t₁ code data ∧ Replies s₂ t₂ code data ∧
    (code = 0 → WrittenAlike i t₁ t₂)

/-- The two states have the same ports. -/
def SamePorts (s u : State) : Prop := u.inputs = s.inputs ∧ u.responses = s.responses

section
variable {i : Instr} {s₁ s₂ u₁ u₂ : State}

theorem replies_give_of_samePorts {s u : State} (h : SamePorts s u) (c : Code) (d : Word) :
    Replies s (u.give c d) c d :=
  ⟨by rw [State.give_responses, h.2], h.1⟩

theorem EndsAlike.respond {d : Word} (h₁ : SamePorts s₁ u₁) (h₂ : SamePorts s₂ u₂) (hw : WrittenAlike i u₁ u₂) :
    EndsAlike i s₁ s₂ (respond d u₁) (respond d u₂) :=
  ⟨_, _, 0, d, rfl, rfl, replies_give_of_samePorts h₁ 0 d, replies_give_of_samePorts h₂ 0 d, fun _ => hw⟩

theorem EndsAlike.raiseError {e : ErrorKind} (h₁ : SamePorts s₁ u₁) (h₂ : SamePorts s₂ u₂) :
    EndsAlike i s₁ s₂ (raiseError e u₁) (raiseError e u₂) :=
  ⟨_, _, e.code, 0, rfl, rfl, replies_give_of_samePorts (u := { u₁ with ef := u₁.ef.raise e }) h₁ _ _,
    replies_give_of_samePorts (u := { u₂ with ef := u₂.ef.raise e }) h₂ _ _, fun h => absurd h e.code_ne_zero⟩

/-- A write to one result register. -/
theorem writtenAlike_writeR {idx : Fin 4} {x : Result} (hm : ∀ j, ¬ i.writesM j) (hv : ∀ j, ¬ i.writesV j)
    (hk : ¬ i.writesK) (hr : ∀ j, i.writesR j → j = idx) : WrittenAlike i (s₁.writeR idx x) (s₂.writeR idx x) := by
  refine ⟨fun j h => absurd h (hm j), fun j h => absurd h (hv j), fun h => absurd h hk, fun j h => ?_⟩
  rw [hr j h, State.writeR_r, State.writeR_r, Quad.get_set_self, Quad.get_set_self]

/-- STATUS is made of the tags, KV and EF (R27). -/
theorem status_eq_of_readsAgree (h : Instr.rds.ReadsAgree s₁ s₂) : s₁.status = s₂.status := by
  obtain ⟨hm, hv, hk, hr, hef⟩ := h
  simp only [State.status, State.mw, State.vw, State.kv, State.rw, hm, hv, hk, hr, hef]

end

theorem exec_endsAlike {i : Instr} {s₁ s₂ : State} (h : i.ReadsAgree s₁ s₂) :
    EndsAlike i s₁ s₂ (exec i s₁) (exec i s₂) := by
  cases i with
  | nop | clre => exact .respond ⟨rfl, rfl⟩ ⟨rfl, rfl⟩ ⟨nofun, nofun, nofun, nofun⟩
  | srst =>
    exact .respond ⟨rfl, rfl⟩ ⟨rfl, rfl⟩ ⟨fun _ _ => rfl, fun _ _ => rfl, fun _ => rfl, fun _ _ => rfl⟩
  | rds =>
    simp only [exec, execRds, status_eq_of_readsAgree h]
    exact .respond ⟨rfl, rfl⟩ ⟨rfl, rfl⟩ ⟨nofun, nofun, nofun, nofun⟩
  | ldm idx imm =>
    refine .respond ⟨rfl, rfl⟩ ⟨rfl, rfl⟩ ⟨fun j hj => ?_, nofun, nofun, nofun⟩
    obtain rfl : j = idx := hj
    rw [State.writeM_m, State.writeM_m, Quad.get_set_self, Quad.get_set_self]
  | ldv idx imm =>
    simp only [exec, execLdv]
    split_ifs with hidx hsymbol
    · refine .respond ⟨rfl, rfl⟩ ⟨rfl, rfl⟩ ⟨nofun, fun j hj => ?_, nofun, nofun⟩
      obtain rfl : j = ⟨idx.val, hidx⟩ := Fin.ext hj
      rw [State.writeV_v, State.writeV_v, Pair.get_set_self, Pair.get_set_self]
    · exact .raiseError ⟨rfl, rfl⟩ ⟨rfl, rfl⟩
    · exact .raiseError ⟨rfl, rfl⟩ ⟨rfl, rfl⟩
  | ldr idx imm =>
    exact .respond ⟨rfl, rfl⟩ ⟨rfl, rfl⟩ (writtenAlike_writeR nofun nofun nofun fun _ => id)
  | rdr idx =>
    have hread : s₁.readR idx = s₂.readR idx := h
    simp only [exec, execRdr, hread]
    cases s₂.readR idx with
    | none => exact .raiseError ⟨rfl, rfl⟩ ⟨rfl, rfl⟩
    | some x => exact .respond ⟨rfl, rfl⟩ ⟨rfl, rfl⟩ ⟨nofun, nofun, nofun, nofun⟩
  | red idx =>
    have hread : s₁.readR idx = s₂.readR idx := h
    simp only [exec, execRed, hread]
    cases s₂.readR idx with
    | none => exact .raiseError ⟨rfl, rfl⟩ ⟨rfl, rfl⟩
    | some x => exact .respond ⟨rfl, rfl⟩ ⟨rfl, rfl⟩ (writtenAlike_writeR nofun nofun nofun fun _ => id)
  | minv idx =>
    have hread : s₁.readR idx = s₂.readR idx := h
    simp only [exec, execMinv, hread]
    cases s₂.readR idx with
    | none => exact .raiseError ⟨rfl, rfl⟩ ⟨rfl, rfl⟩
    | some x =>
      dsimp only
      cases modInverse x.toInt with
      | none => exact .raiseError ⟨rfl, rfl⟩ ⟨rfl, rfl⟩
      | some b => exact .respond ⟨rfl, rfl⟩ ⟨rfl, rfl⟩ (writtenAlike_writeR nofun nofun nofun fun _ => id)
  | rdk idx =>
    simp only [exec, execRdk, State.readK]
    cases hk₁ : s₁.k with
    | none =>
      cases hk₂ : s₂.k with
      | none => exact .raiseError ⟨rfl, rfl⟩ ⟨rfl, rfl⟩
      | some q₂ => simp [Instr.ReadsAgree, hk₁, hk₂] at h
    | some q₁ =>
      cases hk₂ : s₂.k with
      | none => simp [Instr.ReadsAgree, hk₁, hk₂] at h
      | some q₂ =>
        have hentry : q₁.get idx = q₂.get idx := by simpa [Instr.ReadsAgree, hk₁, hk₂] using h
        simp only [hentry]
        exact .respond ⟨rfl, rfl⟩ ⟨rfl, rfl⟩ ⟨nofun, nofun, nofun, nofun⟩
  | det =>
    have hread : s₁.readM = s₂.readM := congrArg Quad.allSet h
    simp only [exec, execDet, hread]
    cases s₂.readM with
    | none => exact .raiseError ⟨rfl, rfl⟩ ⟨rfl, rfl⟩
    | some q => exact .respond ⟨rfl, rfl⟩ ⟨rfl, rfl⟩ (writtenAlike_writeR nofun nofun nofun fun _ => id)
  | adj =>
    have hread : s₁.readM = s₂.readM := congrArg Quad.allSet h
    simp only [exec, execAdj, hread]
    cases s₂.readM with
    | none => exact .raiseError ⟨rfl, rfl⟩ ⟨rfl, rfl⟩
    | some q => exact .respond ⟨rfl, rfl⟩ ⟨rfl, rfl⟩ ⟨nofun, nofun, nofun, fun _ _ => rfl⟩
  | kchk =>
    have hread : s₁.readM = s₂.readM := congrArg Quad.allSet h
    simp only [exec, execKchk, hread]
    cases s₂.readM with
    | none => exact .raiseError ⟨rfl, rfl⟩ ⟨rfl, rfl⟩
    | some q => exact .respond ⟨rfl, rfl⟩ ⟨rfl, rfl⟩ ⟨nofun, nofun, nofun, nofun⟩
  | invm =>
    have hread : s₁.readM = s₂.readM := congrArg Quad.allSet h
    simp only [exec, execInvm, hread]
    cases s₂.readM with
    | none => exact .raiseError ⟨rfl, rfl⟩ ⟨rfl, rfl⟩
    | some q =>
      dsimp only
      cases inverseKeyMod (matrixOf q) with
      | none => exact .raiseError ⟨rfl, rfl⟩ ⟨rfl, rfl⟩
      | some n => exact .respond ⟨rfl, rfl⟩ ⟨rfl, rfl⟩ ⟨nofun, nofun, nofun, fun _ _ => rfl⟩
  | setkey =>
    have hread : s₁.readM = s₂.readM := congrArg Quad.allSet h
    simp only [exec, execSetkey, hread]
    cases s₂.readM with
    | none => exact .raiseError ⟨rfl, rfl⟩ ⟨rfl, rfl⟩
    | some q =>
      dsimp only
      split_ifs
      · exact .respond ⟨rfl, rfl⟩ ⟨rfl, rfl⟩ ⟨nofun, nofun, fun _ => rfl, nofun⟩
      · exact .raiseError ⟨rfl, rfl⟩ ⟨rfl, rfl⟩
  | invkey =>
    have hread : s₁.readK = s₂.readK := h
    simp only [exec, execInvkey, hread]
    cases s₂.readK with
    | none => exact .raiseError ⟨rfl, rfl⟩ ⟨rfl, rfl⟩
    | some q =>
      dsimp only
      cases inverseKeyMod (matrixOf q) with
      | none => exact .raiseError ⟨rfl, rfl⟩ ⟨rfl, rfl⟩
      | some n => exact .respond ⟨rfl, rfl⟩ ⟨rfl, rfl⟩ ⟨nofun, nofun, fun _ => rfl, nofun⟩
  | mulv | mulvr =>
    obtain ⟨hk, hv⟩ := h
    have hreadK : s₁.readK = s₂.readK := hk
    have hreadV : s₁.readV = s₂.readV := congrArg Pair.allSet hv
    simp only [exec, execMulv, execMulvr, hreadK, hreadV]
    cases s₂.readK with
    | none => exact .raiseError ⟨rfl, rfl⟩ ⟨rfl, rfl⟩
    | some q =>
      cases s₂.readV with
      | none => exact .raiseError ⟨rfl, rfl⟩ ⟨rfl, rfl⟩
      | some p =>
        refine .respond ⟨rfl, rfl⟩ ⟨rfl, rfl⟩ ⟨nofun, nofun, nofun, fun j hj => ?_⟩
        obtain rfl | rfl := hj
        · rfl
        · rfl

/-- Settles O46: commands that read the same end alike. -/
theorem commandsReadOnlyWhatTheMatrixMarks : Obligations.CommandsReadOnlyWhatTheMatrixMarks :=
  fun _ _ _ => exec_endsAlike

end Sys2Proof.Machine


/-! PROOF. `encrypt()` and `decrypt()` over column vectors (44_host_sequences.md R122, R123). One ENCV transforms its
pair and keeps the key, so a list of pairs is transformed pair by pair with the same key. -/

namespace Sys2Proof.Machine

theorem symbolOfData_tc32 (x : Symbol) : symbolOfData (tc32 x.val) = x := by
  revert x; decide

/-- The first pair is transformed, and the others follow with the key still there. -/
theorem encryptVectors_cons_of_key {s : State} {q : Quad Entry} {a b : Pair Symbol} (hk : s.k = some q)
    (h : TransformedBy q a b) (ps : List (Pair Symbol)) :
    ∃ t, t.k = some q ∧ encryptVectors (a :: ps) s =
      ⟨(encryptVectors ps t).state, b :: (encryptVectors ps t).output, (encryptVectors ps t).error⟩ := by
  obtain ⟨t, hissue, htk⟩ := issue_encv_of_key hk h
  refine ⟨t, htk, ?_⟩
  rw [encryptVectors, hissue]
  simp only [symbolOfData_tc32]

/-- With a key every pair is transformed, in order, and the key stays. -/
theorem encryptVectors_of_key {s : State} {q : Quad Entry} {ps out : List (Pair Symbol)} (hk : s.k = some q)
    (h : List.Forall₂ (TransformedBy q) ps out) :
    ∃ t, encryptVectors ps s = ⟨t, out, none⟩ ∧ t.k = some q := by
  induction h generalizing s with
  | nil => exact ⟨s, rfl, hk⟩
  | cons hab _ ih =>
    obtain ⟨t, htk, hcons⟩ := encryptVectors_cons_of_key hk hab _
    obtain ⟨u, hrest, huk⟩ := ih htk
    exact ⟨u, by rw [hcons, hrest], huk⟩

theorem exists_forall₂_transformedBy (q : Quad Entry) (ps : List (Pair Symbol)) :
    ∃ out, List.Forall₂ (TransformedBy q) ps out := by
  choose f hf using exists_transformedBy q
  exact ⟨ps.map f, List.forall₂_map_right_iff.2 (List.forall₂_same.2 fun a _ => hf a)⟩

/-- Without a key the first ENCV fails. -/
theorem encryptVectors_of_no_key {s : State} (hk : s.k = none) {ps : List (Pair Symbol)} (hps : ps ≠ []) :
    ∃ t, encryptVectors ps s = ⟨t, [], some 3⟩ := by
  obtain ⟨a, rest, rfl⟩ := List.exists_cons_of_ne_nil hps
  obtain ⟨t, hissue, -⟩ := issue_encv_of_no_key hk a
  exact ⟨t, by rw [encryptVectors, hissue]⟩

/-- Settles O54: the output is the list of the pairs' transforms. -/
theorem encryptTransformsTheVectorsInOrder : Obligations.EncryptTransformsTheVectorsInOrder := by
  refine fun s ps => ⟨fun q hk => ?_, fun hnil => by rw [hnil, encryptVectors], fun hps hk => ?_⟩
  · obtain ⟨out, hout⟩ := exists_forall₂_transformedBy q ps
    obtain ⟨t, hrun, htk⟩ := encryptVectors_of_key hk hout
    rw [hrun]
    exact ⟨rfl, htk, hout⟩
  · obtain ⟨t, hrun⟩ := encryptVectors_of_no_key hk hps
    rw [hrun]
    exact ⟨rfl, rfl⟩

/-! ### Decrypting -/

theorem matrixOf_of_inverseKeyMod {q n : Quad Int} (h : inverseKeyMod q = some n) :
    matrixOf (n.map toEntry) = n :=
  Quad.ext (toInt_get_of_inverseKeyMod h 0) (toInt_get_of_inverseKeyMod h 1) (toInt_get_of_inverseKeyMod h 2)
    (toInt_get_of_inverseKeyMod h 3)

/-- INVKEY first, then the pairs with the inverted key. -/
theorem decryptVectors_of_inverse {s : State} {q : Quad Entry} {n : Quad Int} {ps out : List (Pair Symbol)}
    (hk : s.k = some q) (hn : inverseKeyMod (matrixOf q) = some n)
    (h : List.Forall₂ (TransformedBy (n.map toEntry)) ps out) :
    ∃ t, decryptVectors ps s = ⟨t, out, none⟩ ∧ t.k = some (n.map toEntry) := by
  rw [decryptVectors, issue_cons_of_success rfl (exec_invkey_of_inverse hk hn) ⟨rfl, rfl⟩]
  exact encryptVectors_of_key rfl h

/-- When INVKEY fails no pair is transformed and the key stays. -/
theorem decryptVectors_of_raises {s : State} {e : ErrorKind} (h : Raises (exec .invkey s) e s)
    (ps : List (Pair Symbol)) : ∃ t, decryptVectors ps s = ⟨t, [], some e.code⟩ ∧ t.k = s.k := by
  obtain ⟨t, hstop, -, -, hk, -⟩ := issue_cons_of_raises rfl h []
  exact ⟨t, by rw [decryptVectors, hstop], hk⟩

/-- Settles O55: coprimality of the determinant to 26 decides whether INVKEY inverts or raises. -/
theorem decryptInvertsTheKeyOnce : Obligations.DecryptInvertsTheKeyOnce := by
  refine fun s ps => ⟨fun q hk hgcd => ?_, fun q hk hgcd => ?_, fun hk => ?_⟩
  · obtain ⟨n, hn⟩ := exists_inverseKeyMod_of_gcd_eq_one (q := matrixOf q) hgcd
    obtain ⟨out, hout⟩ := exists_forall₂_transformedBy (n.map toEntry) ps
    obtain ⟨t, hrun, htk⟩ := decryptVectors_of_inverse hk hn hout
    rw [hrun]
    exact ⟨n, n.map toEntry, hn, matrixOf_of_inverseKeyMod hn, rfl, htk, hout⟩
  · obtain ⟨t, hrun, htk⟩ := decryptVectors_of_raises (raises_of_notInvertible (i := .invkey) ⟨q, hk, hgcd⟩) ps
    rw [hrun]
    exact ⟨rfl, rfl, htk⟩
  · obtain ⟨t, hrun, htk⟩ := decryptVectors_of_raises (raises_of_missing (i := .invkey) hk) ps
    rw [hrun]
    exact ⟨rfl, rfl, htk.trans hk⟩

end Sys2Proof.Machine


/-! PROOF. The arithmetic calls REDUCE, MODINV and INVKEYMOD (44_host_sequences.md R125, R126). Each loads its operands,
runs one command and reads out what it wrote; when that command fails, only the loads have answered. None of them is
marked to write K. -/

namespace Sys2Proof.Machine

theorem exec_ldr (s : State) (i : Fin 4) (imm : BitVec 16) :
    exec (.ldr i imm) s = .next ((s.writeR i (immResult imm)).give 0 0) := rfl

/-- LDR answers no data. -/
theorem issue_ldr_cons (s : State) (i : Fin 4) (imm : BitVec 16) (rest : List Instr) :
    issue (.ldr i imm :: rest) s = (issue rest ((s.writeR i (immResult imm)).give 0 0)).prepend [0] :=
  issue_cons_of_success rfl (exec_ldr s i imm) ⟨rfl, rfl⟩ rest

theorem issue_reduceCall (s : State) (a : BitVec 16) :
    ∃ t, issue (reduceCall a) s = ⟨t, [0, 0, tc32 (reduce a.toInt)], none⟩ := by
  obtain ⟨hlo, hhi⟩ := reduce_bounds a.toInt
  have hload : ((s.writeR 0 (immResult a)).give 0 0).r.get 0 = some (immResult a) := rfl
  have hred := exec_red_of_set hload
  rw [immResult_toInt] at hred
  obtain ⟨hreplies, hvalue, -⟩ := setsResult_writeR ((s.writeR 0 (immResult a)).give 0 0) 0 (y := reduce a.toInt)
    (by omega) (by omega)
  rw [reduceCall, issue_ldr_cons, issue_cons_of_success rfl hred hreplies, issue_rdr_cons hvalue]
  exact ⟨_, rfl⟩

theorem issue_modinvCall_of_inverse (s : State) {a : BitVec 16} {b : Int} (hb : modInverse a.toInt = some b) :
    ∃ t, issue (modinvCall a) s = ⟨t, [0, 0, tc32 b], none⟩ ∧ t.k = s.k := by
  obtain ⟨hlo, hhi⟩ := modInverse_bounds hb
  have hload : ((s.writeR 0 (immResult a)).give 0 0).r.get 0 = some (immResult a) := rfl
  have hminv := exec_minv_of_inverse hload ((immResult_toInt a).symm ▸ hb)
  obtain ⟨hreplies, hvalue, -⟩ := setsResult_writeR ((s.writeR 0 (immResult a)).give 0 0) 0 (y := b)
    (by omega) (by omega)
  rw [modinvCall, issue_ldr_cons, issue_cons_of_success rfl hminv hreplies, issue_rdr_cons hvalue]
  exact ⟨_, rfl, rfl⟩

theorem issue_modinvCall_of_no_inverse (s : State) {a : BitVec 16} (hnone : modInverse a.toInt = none) :
    ∃ t, issue (modinvCall a) s = ⟨t, [0], some 2⟩ ∧ t.k = s.k := by
  have hload : ((s.writeR 0 (immResult a)).give 0 0).r.get 0 = some (immResult a) := rfl
  have hminv := exec_minv_of_no_inverse hload ((immResult_toInt a).symm ▸ hnone)
  obtain ⟨t, hstop, -, -, hk, -⟩ := issue_cons_of_raises (i := .minv 0) rfl (hminv ▸ raises_raiseError .noInverse _)
    [.rdr 0]
  refine ⟨t, ?_, hk⟩
  rw [modinvCall, issue_ldr_cons, hstop]
  rfl

/-- Four RDR read out a matrix row-major and keep the key. -/
theorem issue_rdr_four {s : State} {n : Quad Int} (h : ∀ j, intOf (s.r.get j) = some (n.get j)) :
    ∃ t, issue [.rdr 0, .rdr 1, .rdr 2, .rdr 3] s = ⟨t, [tc32 n.e0, tc32 n.e1, tc32 n.e2, tc32 n.e3], none⟩ ∧
      t.k = s.k := by
  rw [issue_rdr_cons (h 0), issue_rdr_cons (s := s.give 0 _) (h 1), issue_rdr_cons (s := (s.give 0 _).give 0 _) (h 2),
    issue_rdr_cons (s := ((s.give 0 _).give 0 _).give 0 _) (h 3)]
  exact ⟨_, rfl, rfl⟩

theorem issue_invkeymodCall_of_inverse (s : State) {q : Quad (BitVec 16)} {n : Quad Int}
    (hn : inverseKeyMod (matrixOf q) = some n) :
    ∃ t, issue (invkeymodCall q.e0 q.e1 q.e2 q.e3) s =
      ⟨t, [0, 0, 0, 0, 0, tc32 n.e0, tc32 n.e1, tc32 n.e2, tc32 n.e3], none⟩ ∧ t.k = s.k := by
  obtain ⟨u, hload, hm, huk⟩ := issue_ldm_four s q [.invm, .rdr 0, .rdr 1, .rdr 2, .rdr 3]
  have hvalues := intOf_get_writeRAll u (q := n) fun j => by
    obtain ⟨hlo, hhi⟩ := inverseKeyMod_bounds hn j
    omega
  obtain ⟨t, hread, htk⟩ := issue_rdr_four (s := (u.writeRAll (n.map toResult)).give 0 0) hvalues
  refine ⟨t, ?_, htk.trans huk⟩
  rw [invkeymodCall, hload, issue_cons_of_success rfl (exec_invm_of_inverse hm hn) ⟨rfl, rfl⟩, hread]
  rfl

theorem issue_invkeymodCall_of_no_inverse (s : State) {q : Quad (BitVec 16)}
    (hnone : inverseKeyMod (matrixOf q) = none) :
    ∃ t, issue (invkeymodCall q.e0 q.e1 q.e2 q.e3) s = ⟨t, [0, 0, 0, 0], some 2⟩ ∧ t.k = s.k := by
  obtain ⟨u, hload, hm, huk⟩ := issue_ldm_four s q [.invm, .rdr 0, .rdr 1, .rdr 2, .rdr 3]
  obtain ⟨t, hstop, -, -, htk, -⟩ := issue_cons_of_raises (i := .invm) rfl
    (exec_invm_of_no_inverse hm hnone ▸ raises_raiseError .noInverse u) [.rdr 0, .rdr 1, .rdr 2, .rdr 3]
  refine ⟨t, ?_, htk.trans huk⟩
  rw [invkeymodCall, hload, hstop]
  rfl

theorem k_issue_modinvCall (s : State) (a : BitVec 16) : (issue (modinvCall a) s).state.k = s.k := by
  cases h : modInverse a.toInt with
  | some b =>
    obtain ⟨t, hissue, hk⟩ := issue_modinvCall_of_inverse s h
    rw [hissue, hk]
  | none =>
    obtain ⟨t, hissue, hk⟩ := issue_modinvCall_of_no_inverse s h
    rw [hissue, hk]

theorem k_issue_invkeymodCall (s : State) (q : Quad (BitVec 16)) :
    (issue (invkeymodCall q.e0 q.e1 q.e2 q.e3) s).state.k = s.k := by
  cases h : inverseKeyMod (matrixOf q) with
  | some n =>
    obtain ⟨t, hissue, hk⟩ := issue_invkeymodCall_of_inverse s h
    rw [hissue, hk]
  | none =>
    obtain ⟨t, hissue, hk⟩ := issue_invkeymodCall_of_no_inverse s h
    rw [hissue, hk]

/-- Settles O56: each call by whether the inverse it asks for exists. -/
theorem arithmeticCallsReadOutTheirFunctions : Obligations.ArithmeticCallsReadOutTheirFunctions := by
  intro s a b c d
  refine ⟨?_, ?_, ?_, k_issue_modinvCall s a, k_issue_invkeymodCall s ⟨a, b, c, d⟩⟩
  · obtain ⟨t, hissue⟩ := issue_reduceCall s a
    rw [hissue]
    exact ⟨rfl, rfl⟩
  · split
    · next i hi =>
      obtain ⟨t, hissue, -⟩ := issue_modinvCall_of_inverse s hi
      rw [hissue]
      exact ⟨rfl, rfl⟩
    · next hnone =>
      obtain ⟨t, hissue, -⟩ := issue_modinvCall_of_no_inverse s hnone
      rw [hissue]
      exact ⟨rfl, rfl⟩
  · split
    · next n hn =>
      obtain ⟨t, hissue, -⟩ := issue_invkeymodCall_of_inverse s (q := ⟨a, b, c, d⟩) hn
      rw [hissue]
      exact ⟨rfl, rfl⟩
    · next hnone =>
      obtain ⟨t, hissue, -⟩ := issue_invkeymodCall_of_no_inverse s (q := ⟨a, b, c, d⟩) hnone
      rw [hissue]
      exact ⟨rfl, rfl⟩

end Sys2Proof.Machine


/-! PROOF. The text round trip (44_host_sequences.md R127 to R131; 95_test_vectors.md S1). An alphabet's 26 different
lowercase letters are all there are, so every normalised text spells a list of symbols, and `encode` and `decode` undo
each other on texts of even length; the inverted key takes every pair back to what it was. -/

namespace Sys2Proof.Machine

/-! ### The alphabet -/

/-- The letters a to z. -/
def lowercase : Finset Char := (Finset.range 26).image fun n => Char.ofNat (97 + n)

theorem mem_lowercase {c : Char} (h : c.isLower = true) : c ∈ lowercase := by
  have hbounds : 97 ≤ c.toNat ∧ c.toNat ≤ 122 := by simpa [Char.isLower, UInt32.le_iff_toNat_le] using h
  refine Finset.mem_image.2 ⟨c.toNat - 97, Finset.mem_range.2 (by omega), ?_⟩
  rw [Nat.add_sub_cancel' hbounds.1, Char.ofNat_toNat]

section
variable (a : Alphabet)

/-- 26 different lowercase letters are all lowercase letters. -/
theorem Alphabet.mem_letters {c : Char} (h : c.isLower = true) : c ∈ a.letters := by
  have hsubset : a.letters.toFinset ⊆ lowercase := fun d hd => mem_lowercase (a.lower d (List.mem_toFinset.1 hd))
  have hcard : lowercase.card ≤ a.letters.toFinset.card := by
    rw [List.toFinset_card_of_nodup a.nodup, a.length_eq]
    decide
  have hall := Finset.eq_of_subset_of_card_le hsubset hcard
  exact List.mem_toFinset.1 (hall ▸ mem_lowercase h)

theorem Alphabet.symbolAt_eq_getElem (i : Symbol) :
    a.symbolAt i = a.letters[i.val]'(a.length_eq.symm ▸ i.isLt) :=
  (List.getElem_eq_getD _).symm

theorem Alphabet.isLower_symbolAt (i : Symbol) : (a.symbolAt i).isLower = true := by
  rw [a.symbolAt_eq_getElem]
  exact a.lower _ (List.getElem_mem _)

/-- Different indices have different letters, so the index of a letter is the one it was taken from. -/
theorem Alphabet.indexOf_symbolAt (i : Symbol) : a.indexOf (a.symbolAt i) = some i := by
  have hidx : a.letters.idxOf (a.symbolAt i) = i.val := by
    rw [a.symbolAt_eq_getElem]
    exact a.nodup.idxOf_getElem _ _
  simp only [Alphabet.indexOf, hidx, i.isLt, dif_pos]

theorem Alphabet.exists_symbolAt {c : Char} (h : c.isLower = true) : ∃ i, a.symbolAt i = c := by
  have hlt : a.letters.idxOf c < a.letters.length := List.idxOf_lt_length_of_mem (a.mem_letters h)
  refine ⟨⟨a.letters.idxOf c, a.length_eq ▸ hlt⟩, ?_⟩
  rw [a.symbolAt_eq_getElem]
  exact List.getElem_idxOf hlt

/-- A text of lowercase letters spells a list of symbols. -/
theorem Alphabet.exists_map_symbolAt {cs : List Char} (h : ∀ c ∈ cs, c.isLower = true) :
    ∃ xs : List Symbol, xs.map a.symbolAt = cs := by
  have hrange : cs ∈ Set.range (List.map a.symbolAt) := by
    rw [Set.range_list_map]
    exact fun c hc => a.exists_symbolAt (h c hc)
  exact hrange

theorem Alphabet.mapM_indexOf_map_symbolAt (xs : List Symbol) : (xs.map a.symbolAt).mapM a.indexOf = some xs := by
  rw [List.mapM_map, show a.indexOf ∘ a.symbolAt = fun i => pure (id i) from funext a.indexOf_symbolAt, List.mapM_pure,
    List.map_id]
  rfl

end

/-! ### Normalising and padding -/

theorem isLower_of_mem_normalizeText {msg : List Char} {c : Char} (h : c ∈ normalizeText msg) : c.isLower = true := by
  obtain ⟨d, hd, rfl⟩ := List.mem_map.1 h
  obtain ⟨-, halpha⟩ := List.mem_filter.1 hd
  rw [Char.isLower_toLower_eq_isAlpha, halpha]

/-- A text of lowercase letters is normalised already. -/
theorem normalizeText_of_isLower {cs : List Char} (h : ∀ c ∈ cs, c.isLower = true) : normalizeText cs = cs := by
  have hfilter : cs.filter Char.isAlpha = cs := List.filter_eq_self.2 fun c hc => by
    rw [Char.isAlpha, h c hc, Bool.or_true]
  rw [normalizeText, hfilter]
  exact (List.map_congr_left fun c hc =>
    Char.toLower_eq_of_not_isUpper (Char.not_isUpper_of_isLower (h c hc))).trans (List.map_id cs)

theorem pad_of_even {cs : List Char} (h : cs.length % 2 = 0) : pad cs = cs := by
  rw [pad, if_neg (by omega)]

theorem length_pad_even (cs : List Char) : (pad cs).length % 2 = 0 := by
  unfold pad
  split_ifs with hodd
  · have hne : cs ≠ [] := by rintro rfl; cases hodd
    rw [List.getLast?_eq_some_getLast hne, List.length_append]
    simp only [Option.toList_some, List.length_singleton]
    omega
  · omega

theorem pad_ne_nil {cs : List Char} (h : cs ≠ []) : pad cs ≠ [] := by
  unfold pad
  split_ifs
  · exact List.append_ne_nil_of_left_ne_nil h _
  · exact h

/-- Padding repeats a character of the text. -/
theorem mem_of_mem_pad {cs : List Char} {c : Char} (h : c ∈ pad cs) : c ∈ cs := by
  unfold pad at h
  split_ifs at h
  · exact (List.mem_append.1 h).elim id fun hlast => List.mem_of_getLast? (Option.mem_toList.1 hlast)
  · exact h

/-! ### Pairs and their text -/

/-- The symbols of a list of pairs, top entries first. -/
def flattenPairs (ps : List (Pair Symbol)) : List Symbol := ps.flatMap fun p => [p.e0, p.e1]

theorem length_flattenPairs (ps : List (Pair Symbol)) : (flattenPairs ps).length = 2 * ps.length := by
  induction ps with
  | nil => rfl
  | cons p ps ih => exact congrArg (· + 2) ih

theorem vectorize_flattenPairs (ps : List (Pair Symbol)) : vectorize (flattenPairs ps) = ps := by
  induction ps with
  | nil => rfl
  | cons p ps ih => exact congrArg (p :: ·) ih

theorem flattenPairs_vectorize {xs : List Symbol} (h : xs.length % 2 = 0) : flattenPairs (vectorize xs) = xs := by
  induction xs using vectorize.induct with
  | case1 x y rest ih =>
    have hrest : rest.length % 2 = 0 := by
      simp only [List.length_cons] at h
      omega
    exact congrArg (x :: y :: ·) (ih hrest)
  | case2 x => cases h
  | case3 => rfl

theorem decodeText_eq (a : Alphabet) (ps : List (Pair Symbol)) :
    decodeText a ps = (flattenPairs ps).map a.symbolAt := by
  rw [decodeText, flattenPairs, List.map_flatMap]
  rfl

/-- A text that normalises to something is encoded as pairs whose text is the padded one. -/
theorem exists_encodeText {a : Alphabet} {msg : List Char} (h : normalizeText msg ≠ []) :
    ∃ ps, encodeText a msg = some ps ∧ decodeText a ps = pad (normalizeText msg) := by
  obtain ⟨xs, hxs⟩ := a.exists_map_symbolAt fun c hc => isLower_of_mem_normalizeText (mem_of_mem_pad hc)
  have heven : xs.length % 2 = 0 := by
    rw [← List.length_map (f := a.symbolAt), hxs]
    exact length_pad_even _
  refine ⟨vectorize xs, ?_, ?_⟩
  · rw [encodeText, if_neg h, ← hxs, a.mapM_indexOf_map_symbolAt, Option.map_some]
  · rw [decodeText_eq, flattenPairs_vectorize heven, hxs]

/-- The text of some pairs is encoded as these pairs. -/
theorem encodeText_decodeText (a : Alphabet) {ps : List (Pair Symbol)} (h : ps ≠ []) :
    encodeText a (decodeText a ps) = some ps := by
  have hlower : ∀ c ∈ decodeText a ps, c.isLower = true := by
    rw [decodeText_eq]
    exact List.forall_mem_map.2 fun i _ => a.isLower_symbolAt i
  have hne : decodeText a ps ≠ [] := by
    obtain ⟨p, rest, rfl⟩ := List.exists_cons_of_ne_nil h
    exact List.cons_ne_nil _ _
  have heven : (decodeText a ps).length % 2 = 0 := by
    rw [decodeText_eq, List.length_map, length_flattenPairs, Nat.mul_mod_right]
  rw [encodeText, normalizeText_of_isLower hlower, if_neg hne, pad_of_even heven, decodeText_eq,
    a.mapM_indexOf_map_symbolAt, Option.map_some, vectorize_flattenPairs]

section
variable {a : Alphabet} {msg : List Char} {s t : State} {ps out : List (Pair Symbol)}

theorem encryptText_of_encodeText (hmsg : encodeText a msg = some ps) (hrun : encryptVectors ps s = ⟨t, out, none⟩) :
    encryptText a msg s = some ⟨t, .ok (decodeText a out)⟩ := by
  rw [encryptText, hmsg, Option.map_some, hrun]
  rfl

theorem decryptText_of_encodeText (hmsg : encodeText a msg = some ps) (hrun : decryptVectors ps s = ⟨t, out, none⟩) :
    decryptText a msg s = some ⟨t, .ok (decodeText a out)⟩ := by
  rw [decryptText, hmsg, Option.map_some, hrun]
  rfl

end

/-- Settles O57: the cipher text's pairs are the transforms of the text's, and the inverted key takes each back. -/
theorem textRoundTrip : Obligations.TextRoundTrip := by
  intro a s q msg hk hgcd hmsg
  obtain ⟨n, hn⟩ := exists_inverseKeyMod_of_gcd_eq_one (q := matrixOf q) hgcd
  obtain ⟨ps, hencode, hdecode⟩ := exists_encodeText (a := a) hmsg
  obtain ⟨out, hout⟩ := exists_forall₂_transformedBy q ps
  have hback : List.Forall₂ (TransformedBy (n.map toEntry)) out ps :=
    (hout.imp fun _ _ => transformedBy_inverse hn).flip
  have hne : out ≠ [] := by
    rintro rfl
    cases hout
    exact pad_ne_nil hmsg hdecode.symm
  obtain ⟨t, hencrypt, htk⟩ := encryptVectors_of_key hk hout
  obtain ⟨u, hdecrypt, -⟩ := decryptVectors_of_inverse htk hn hback
  exact ⟨_, _, decodeText a out, encryptText_of_encodeText hencode hencrypt, rfl,
    decryptText_of_encodeText (encodeText_decodeText a hne) hdecrypt, congrArg Except.ok hdecode⟩

end Sys2Proof.Machine


/-! PROOF. The assembler (30_encoding.md R64). Every command it makes is well formed: LDV's operands are checked by
name, a pseudo-command's LDV take symbols, and no other command has an ill-formed operand. A well-formed command's word
decodes, so it is not illegal. -/

namespace Sys2Proof.Machine

/-- Every command of the list is well formed. -/
def AllWellFormed (is : List Instr) : Prop := ∀ i ∈ is, i.wellFormed = true

theorem wellFormed_of_asmOp {o : Op} {args : List Int} {i : Instr} (h : asmOp o args = some i) :
    i.wellFormed = true := by
  unfold asmOp at h
  split at h
  · next hformat =>
    cases h
    exact Op.wellFormed_withOperands (by rintro rfl; cases hformat) 0 0
  · next hformat =>
    obtain ⟨idx, -, rfl⟩ := Option.map_eq_some_iff.1 h
    exact Op.wellFormed_withOperands (by rintro rfl; cases hformat) idx 0
  · split at h
    · split_ifs at h with hwf
      cases h
      exact hwf
    · cases h
  · cases h

theorem wellFormed_ldv_symbolImm {idx : Fin 4} (h : idx.val < 2) (x : Symbol) :
    (Instr.ldv idx (symbolImm x)).wellFormed = true :=
  Bool.and_eq_true_iff.2 ⟨decide_eq_true h, ldvSymbolOk_symbolImm x⟩

theorem allWellFormed_encv (x y : Symbol) : AllWellFormed (encv x y) := by
  have hx := wellFormed_ldv_symbolImm (idx := 0) (by decide) x
  have hy := wellFormed_ldv_symbolImm (idx := 1) (by decide) y
  exact List.forall_mem_cons.2 ⟨hx, List.forall_mem_cons.2 ⟨hy, by decide⟩⟩

theorem allWellFormed_of_asmPseudo {p : PseudoOp} {args : List Int} {is : List Instr}
    (h : asmPseudo p args = some is) : AllWellFormed is := by
  unfold asmPseudo at h
  split at h
  all_goals simp only [Option.bind_eq_bind, Option.bind_eq_some_iff, Option.pure_def, Option.some.injEq,
    reduceCtorEq] at h
  · obtain ⟨a, -, b, -, c, -, d, -, rfl⟩ := h
    exact List.all_eq_true.1 rfl
  · obtain ⟨x, -, y, -, rfl⟩ := h
    exact allWellFormed_encv x y
  · obtain ⟨x, -, rfl⟩ := h
    exact List.all_eq_true.1 rfl
  · obtain ⟨a, -, rfl⟩ := h
    exact List.all_eq_true.1 rfl
  · obtain ⟨a, -, b, -, c, -, d, -, rfl⟩ := h
    exact List.all_eq_true.1 rfl

theorem allWellFormed_of_assembleLine {line : List Char} {is : List Instr} (h : assembleLine line = some is) :
    AllWellFormed is := by
  unfold assembleLine at h
  dsimp only at h
  split at h
  · cases h
    exact nofun
  · split at h
    · obtain ⟨i, hi, rfl⟩ := Option.map_eq_some_iff.1 h
      exact List.forall_mem_singleton.2 (wellFormed_of_asmOp hi)
    · exact allWellFormed_of_asmPseudo h
    · cases h

/-- Settles O58: the word of a well-formed command decodes. -/
theorem assemblerMakesNoIllegalWord : Obligations.AssemblerMakesNoIllegalWord := by
  intro line ws h w hw
  obtain ⟨is, his, rfl⟩ := Option.map_eq_some_iff.1 h
  obtain ⟨i, hi, rfl⟩ := List.mem_map.1 hw
  exact (exists_decode_eq_ok_iff _).1 ⟨i, decode_encode (allWellFormed_of_assembleLine his i hi)⟩

end Sys2Proof.Machine
